-- ==== Sys2Proof/Word.lean ====
section
/-! DEFINITION. The sizes and the plain data types of the SPN-ENGINE (spec/00_scope.md R5, R7, R10). -/

namespace Sys2Proof

/-- `N`, the number of 16-bit words of the block, the key and the key input (R5, decision D2: 8 for this hardware).
DEDUCED, unsafe for a block built with another N: log entry 6. -/
abbrev N : Nat := 8

/-- `BLOCK_BYTES` and `KEY_BYTES`: both are `2*N` (R5, R140). -/
abbrev blockBytes : Nat := 2 * N

/-- A byte; also an 8-bit operand field and a byte offset in the register window. -/
abbrev Byte := BitVec 8

/-- A 16-bit word of the datapath (R7). -/
abbrev Word := BitVec 16

/-- The 32-bit number one bus access moves (R62, R73). -/
abbrev BusWord := BitVec 32

/-- An N-bit column of the bitslice (spec/42_round_layers.md R153). -/
abbrev Column := BitVec N

/-- A state `S` of the datapath, and the contents of DATA, KEYIN and KEY: `N` words, index 0 first (R10). -/
abbrev Block := Vector Word N

/-- One `written` mark per word of a register file (spec/10_state.md R21, R22). -/
abbrev Marks := Vector Bool N

end Sys2Proof
end

