-- ==== Sys2Proof/Config.lean ====
section
/-! DEFINITION. The configuration record of the SPN-ENGINE (spec/00_scope.md R5), the laws it must satisfy (R157,
R163, R222), the configuration of the chip, which nothing in the model knows, and the free values (R67,
R220). -/

namespace Sys2Proof

/-- The OPEN parameters of R5 and R36. A table of 256 words indexed by byte value is a function of the index.
`N`, `BLOCK_BYTES` and `KEY_BYTES` are decided for this hardware and stand in Word.lean. -/
structure Configuration where
  /-- `DEFAULT_ROUNDS` (D4). -/
  defaultRounds : Nat
  /-- `SAFE_MIN` (D5). -/
  safeMin : Nat
  /-- `SAFE_MAX` (D5). -/
  safeMax : Nat
  /-- `LBox1`: the high-byte diffusion table and the round-constant table (D7, D8). -/
  lbox1 : Byte → Word
  /-- `LBox2`: the low-byte diffusion table (D7, D8). -/
  lbox2 : Byte → Word
  /-- `ILBox1`: the high-byte inverse-diffusion table (D10). -/
  ilbox1 : Byte → Word
  /-- `ILBox2`: the low-byte inverse-diffusion table (D10). -/
  ilbox2 : Byte → Word
  /-- `SBoxCol`: the column substitution (D9). -/
  sboxCol : Column → Column
  /-- `SBoxColInv`: its inverse (D10). -/
  sboxColInv : Column → Column
  /-- `BASE`: the host bus address of the register window (D11). DEDUCED, safe: accesses are by offset, log entry 7. -/
  base : Nat

/-- A round-count parameter is in 1..255 (R5, R222). -/
abbrev countInRange (n : Nat) : Prop := 1 ≤ n ∧ n ≤ 255

/-- SAFE_MIN <= DEFAULT_ROUNDS <= SAFE_MAX, each in 1..255 (R5, R222). -/
abbrev Configuration.RoundsLaw (c : Configuration) : Prop :=
  countInRange c.defaultRounds ∧ countInRange c.safeMin ∧ countInRange c.safeMax ∧
    c.safeMin ≤ c.defaultRounds ∧ c.defaultRounds ≤ c.safeMax

/-- The S-box law (R157): SBoxColInv(SBoxCol(x)) = x for every column. -/
abbrev Configuration.SBoxLaw (c : Configuration) : Prop := ∀ x : Column, c.sboxColInv (c.sboxCol x) = x

/-- `Lin` on one word as the law of R163 reads it: the high byte indexes LBox1 and the low byte LBox2 (R160). -/
abbrev Configuration.diffuse (c : Configuration) (x : Word) : Word :=
  c.lbox1 (x.extractLsb' 8 8) ^^^ c.lbox2 (x.extractLsb' 0 8)

/-- `InvLin` on one word as the law of R163 reads it (R164). -/
abbrev Configuration.undiffuse (c : Configuration) (x : Word) : Word :=
  c.ilbox1 (x.extractLsb' 8 8) ^^^ c.ilbox2 (x.extractLsb' 0 8)

/-- The diffusion law (R163): InvLin(Lin(x)) = x for every word. -/
abbrev Configuration.DiffusionLaw (c : Configuration) : Prop := ∀ x : Word, c.undiffuse (c.diffuse x) = x

/-- A configuration the model admits (R5, R222). It is decided by evaluation: 2^N and 65536 cases. -/
abbrev Configuration.WellFormed (c : Configuration) : Prop :=
  (1 ≤ N ∧ N ≤ 16) ∧ c.RoundsLaw ∧ c.SBoxLaw ∧ c.DiffusionLaw

/-- A configuration with identity layers: evidence that the laws can be met, and nothing else. -/
def Configuration.plain : Configuration where
  defaultRounds := 1
  safeMin := 1
  safeMax := 1
  lbox1 h := h.setWidth 16 <<< 8
  lbox2 l := l.setWidth 16
  ilbox1 h := h.setWidth 16 <<< 8
  ilbox2 l := l.setWidth 16
  sboxCol := id
  sboxColInv := id
  base := 0

theorem Configuration.plain_diffuse (x : Word) : Configuration.plain.diffuse x = x := by
  apply BitVec.eq_of_getLsbD_eq
  intro i hi
  by_cases h : i < 8
  · simp [plain, h]; omega
  · have h' : i - 8 < 8 := by omega
    have h'' : 8 + (i - 8) = i := by omega
    simp [plain, h, h', h'', hi]

theorem Configuration.plain_wellFormed : Configuration.plain.WellFormed :=
  ⟨by decide, by decide, fun _ => rfl, fun x => by
    have h := Configuration.plain_diffuse x
    have h' := Configuration.plain_diffuse (Configuration.plain.diffuse x)
    exact h'.trans h⟩

/-- A configuration together with the proof that the model admits it. The default is only what makes the type
inhabited. -/
structure AdmittedConfiguration where
  cfg : Configuration := Configuration.plain
  ok : cfg.WellFormed := by exact Configuration.plain_wellFormed
  deriving Inhabited

/-- The configuration of the chip (R5, R36, R37(c)): OPEN, so it has no body and every claim about the machine holds
for every configuration the model admits. DESIGN CHOICE, safe: log entry 2. -/
opaque Config.chip : AdmittedConfiguration

/-- The `n`-th free value: the draw of a DATA read while BUSY (R64, R67(b)), or the contents of a KEYIN or DATA word that
nothing has written since reset, when it is read or consumed (R21, R22, R220). DESIGN CHOICE, safe: log entries 1 and 3. -/
opaque Config.draw : Nat → Word

end Sys2Proof
end

