-- ==== Sys2Proof/Syntax.lean ====
section
/-! DEFINITION. The five commands of the SPN-ENGINE, one constructor per row of spec/opcode_table.json. -/

namespace Sys2Proof

/-- A command (spec/30_encoding.md R90, R91, R95). `len` is the field LEN (R93) and `rnd` the field RND (R92), each
the whole 8-bit field, so that every value an encoding admits is a value here and no other is. -/
inductive Instr where
  | nop
  | setup (len rnd : Byte)
  | encrypt (len : Byte)
  | decrypt (len : Byte)
  | release
  deriving DecidableEq, Repr

end Sys2Proof
end

