-- ==== Sys2Proof/WellFormed.lean ====
section
/-! DEFINITION. Which commands have an encoding. The well-formedness check that can fail on this hardware is the
configuration's (R5, R222): it stands in Config.lean, because the chip's configuration carries a proof of it. -/

namespace Sys2Proof

/-- Every command has an encoding: LEN and RND are 8-bit fields by their type, and R95 admits every value of them
in the rows that have them. A wrong LEN is no ill-formed command but the Error InvalidLength (R99). -/
def Instr.wellFormed : Instr → Bool
  | .nop => true
  | .setup _ _ => true
  | .encrypt _ => true
  | .decrypt _ => true
  | .release => true

end Sys2Proof
end

