-- ==== Sys2Proof/Decode.lean ====
section
/-! DEFINITION. The command word: its fields, the opcode table, the decoder and the encoder (spec/30_encoding.md). -/

namespace Sys2Proof

/-- OP, bits 3:0 (R90). -/
def opField (c : BusWord) : BitVec 4 := c.extractLsb' 0 4

/-- RSV0, bits 7:4 (R90). -/
def rsv0Field (c : BusWord) : BitVec 4 := c.extractLsb' 4 4

/-- RND, bits 15:8 (R90, R92). -/
def rndField (c : BusWord) : Byte := c.extractLsb' 8 8

/-- LEN, bits 23:16 (R90, R93). -/
def lenField (c : BusWord) : Byte := c.extractLsb' 16 8

/-- RSV1, bits 31:24 (R90). -/
def rsv1Field (c : BusWord) : Byte := c.extractLsb' 24 8

/-- One row of the opcode map (R95): a word `c` is the row's when `c &&& mask = pattern`, and `build` makes the
command of the fields LEN and RND. -/
structure OpcodeRow where
  mnemonic : String
  mask : BusWord
  pattern : BusWord
  build : Byte → Byte → Instr

/-- The five rows of R95, in the table's order. -/
def opcodeRows : List OpcodeRow :=
  [ ⟨"NOP", 0xFFFFFFFF#32, 0x00000000#32, fun _ _ => .nop⟩,
    ⟨"SETUP", 0xFF0000FF#32, 0x00000001#32, fun len rnd => .setup len rnd⟩,
    ⟨"ENCRYPT", 0xFF00FFFF#32, 0x00000002#32, fun len _ => .encrypt len⟩,
    ⟨"DECRYPT", 0xFF00FFFF#32, 0x00000003#32, fun len _ => .decrypt len⟩,
    ⟨"RELEASE", 0xFFFFFFFF#32, 0x00000004#32, fun _ _ => .release⟩ ]

/-- Why a word is no command. The block does not tell these apart: each is Error(IllegalCommand) (R96, R98).
DESIGN CHOICE, safe: log entry 16. -/
inductive Undecodable where
  /-- RSV0 or RSV1 is not zero (R94). -/
  | reservedField
  /-- OP is one of 5..15 (R91, R98). -/
  | reservedOp
  /-- A field the command does not use is not zero (R97). -/
  | unusedField
  deriving DecidableEq, Repr

/-- The reason a word that matches no row is no command. -/
def undecodable (c : BusWord) : Undecodable :=
  if rsv0Field c ≠ 0 ∨ rsv1Field c ≠ 0 then .reservedField
  else if 5 ≤ (opField c).toNat then .reservedOp
  else .unusedField

/-- Decoding, total on all 2^32 words: the row with `(c & mask) = match`, or no command (R96). -/
def decode (c : BusWord) : Except Undecodable Instr :=
  match opcodeRows.find? fun r => c &&& r.mask == r.pattern with
  | some r => .ok (r.build (lenField c) (rndField c))
  | none => .error (undecodable c)

/-- The format CW: LEN in bits 23:16, RND in bits 15:8, OP in bits 3:0, and zeros in RSV1 and RSV0 (R90). -/
def commandWord (len rnd : Byte) (op : BitVec 4) : BusWord :=
  len.setWidth 32 <<< 16 ||| rnd.setWidth 32 <<< 8 ||| op.setWidth 32

/-- The encoding of a command, by the patterns of R95. -/
def encode : Instr → BusWord
  | .nop => commandWord 0 0 0
  | .setup len rnd => commandWord len rnd 1
  | .encrypt len => commandWord len 0 2
  | .decrypt len => commandWord len 0 3
  | .release => commandWord 0 0 4

/-- What the decoder reads from an instruction whose bits are `w`: the low `nbits` bits of `w`, and zeros above
them up to the one length a command has, 32 bits (R90, R101). A longer `nbits` is no command. -/
def decodeTableWord (nbits w : Nat) : Option Instr :=
  if nbits ≤ 32 then (decode (BitVec.ofNat 32 (w % 2 ^ nbits))).toOption else none

end Sys2Proof
end

