-- ==== Sys2Proof/Machine/State.lean ====
section
/-! DEFINITION. The state of the SPN-ENGINE and its host as plain data (spec/10_state.md), the faults and refusals,
and the state right after reset. -/

namespace Sys2Proof.Machine

/-- The four Errors of spec/60_exceptions.md R211. An Error is an outcome the host can observe, no fault: the access
is dropped and the code recorded (R212). -/
inductive Error where
  | invalidLength
  | illegalCommand
  | noKey
  | busy
  deriving DecidableEq, Repr

/-- Why a bus access is outside the map (R220). -/
inductive BusFaultKind where
  | width
  | misaligned
  | unmapped
  deriving DecidableEq, Repr

/-- What a step of this machine stops with: nothing, so no step answers a fault. The faults of spec/60_exceptions.md
R220 are recorded in the fault field of R37 (a), as a `FaultMark`, and the machine goes on (R190, R197, R221). -/
inductive Fault
  deriving DecidableEq, Repr

/-- What the fault field of R37 (a) can hold: the faults of spec/60_exceptions.md R220. A mark is a verdict of the model
that neither the host nor the engine can observe (R37, spec/00_scope.md R9). -/
inductive FaultMark where
  /-- The host made an access of a width other than 32 bits, at an offset that is no multiple of 4, or at an unmapped
  offset (R62, R63). The access has no other effect and gives no value (R62). DESIGN CHOICE, safe: log entry 8. -/
  | busFault (kind : BusFaultKind)
  /-- The host read a KEYIN word, or a DATA word while idle, that nothing has written since reset, or an accepted SETUP,
  ENCRYPT or DECRYPT consumed one (R21, R22, R64, R112 to R114). The machine goes on with some value (R220): a free
  value. DESIGN CHOICE, safe: log entry 1. -/
  | unwrittenRead
  deriving DecidableEq, Repr

/-- What the model does not admit. -/
inductive Refusal where
  /-- An instruction without a meaning; no arm of exec answers with it. Safe. -/
  | notModelled (mnemonic : String)
  /-- Raised by `stepUnder` for a configuration that fails a law (R222). Safe: such a configuration has no runs. The
  chip's own configuration carries its proof, so `step` never answers it. -/
  | illFormedConfiguration
  deriving DecidableEq, Repr

/-- The phases of an encryption (R33, R191). -/
inductive EncPhase where
  | ek0
  | erc
  | esub
  | elin
  | ekey
  deriving DecidableEq, Repr

/-- The phases of a decryption (R33, R192). -/
inductive DecPhase where
  | dkey
  | dilin
  | disub
  | drc
  | dkf
  deriving DecidableEq, Repr

/-- The sequencer position (R33): `Idle`, `Run(Enc, i, ph)` or `Run(Dec, i, ph)`. -/
inductive Seq where
  | idle
  | enc (i : Nat) (ph : EncPhase)
  | dec (i : Nat) (ph : DecPhase)
  deriving DecidableEq, Repr

/-- The width of a bus access in bits: 32, or one of the others R62 names. -/
inductive Width where
  | w8
  | w16
  | w32
  | w64
  deriving DecidableEq, Repr

/-- A mapped register of the window (spec/20_memory.md R61). -/
inductive Reg where
  | cfg
  | status
  | cmd
  | rounds
  | keyin (w : Fin N)
  | data (w : Fin N)
  deriving DecidableEq, Repr

/-- A statement of the host (spec/30_encoding.md R100), over raw offsets and widths, so that an access outside the
map can be said too. The other forms of R100 expand to these (Machine/HostProgram.lean). -/
inductive Stmt where
  /-- `WR`: a bus write of `v` at byte offset `off`. -/
  | write (width : Width) (off : Byte) (v : BusWord)
  /-- `RD`: a bus read at byte offset `off` into the host variable `t<t>`. -/
  | read (width : Width) (off : Byte) (t : Nat)
  /-- `POLL`: read STATUS into `t<t>` until BUSY is 0. DESIGN CHOICE, safe: log entry 15. -/
  | poll (t : Nat)
  deriving DecidableEq, Repr

/-- Who moves next (spec/00_scope.md R11). -/
inductive Turn where
  | host
  | engine
  | reset
  deriving DecidableEq, Repr

/-- Everything the spec gives the machine, and the two fields of the model's own that say so.
STATUS.BUSY is not stored: it is `seq ≠ Idle` (R29). CFG and CMD have no storage (R26, R35). -/
structure State where
  /-- DATA[0..N-1] (R20). -/
  data : Block
  /-- written(DATA[w]) (R21). -/
  dataWritten : Marks
  /-- KEYIN[0..N-1] (R22). -/
  keyin : Block
  /-- written(KEYIN[w]) (R22). -/
  keyinWritten : Marks
  /-- KEY[0..N-1] (R23). -/
  key : Block
  /-- ROUNDS[7:0] (R27). -/
  rounds : Byte
  /-- STATUS.KEY_VALID (R30). -/
  keyValid : Bool
  /-- STATUS.DONE (R31). -/
  done : Bool
  /-- STATUS.WARN (R32). -/
  warn : Bool
  /-- STATUS.ERROVF (R34). -/
  errovf : Bool
  /-- STATUS.ERR (R34): none is the code 0, and the codes 5..15 are never produced (R211).
  DEDUCED, safe: log entry 14. -/
  err : Option Error
  /-- The sequencer position (R33). -/
  seq : Seq
  /-- The model's fault field (R37(a), R221). -/
  fault : Option FaultMark
  /-- The statements the host has yet to run, first one first (R100). DESIGN CHOICE: log entry 5. -/
  program : List Stmt
  /-- The host variables that hold a value, by number, numbers rising (R100). DESIGN CHOICE: log entries 5 and 15. -/
  vars : List (Nat × BusWord)
  /-- The MODEL's own: who moves next, first turn first (R74). DESIGN CHOICE: log entry 4. -/
  schedule : List Turn
  /-- The MODEL's own: how many free values were taken (R67(b), R220). DESIGN CHOICE, safe: log entry 3. -/
  draws : Nat
  deriving DecidableEq, Repr

/-- The machine right after reset (R39, R240), with no host program. The values of DATA and KEYIN stand under
cleared marks and no meaning reads them: a free value stands for each (DESIGN CHOICE, unsafe as values: log entry 1).
Those of `program`, `vars`, `schedule` and `draws` are the model's (DESIGN CHOICE: log entries 3, 4, 5). -/
def State.reset : State where
  data := .replicate N 0
  dataWritten := .replicate N false
  keyin := .replicate N 0
  keyinWritten := .replicate N false
  key := .replicate N 0
  rounds := 0
  keyValid := false
  done := false
  warn := false
  errovf := false
  err := none
  seq := .idle
  fault := none
  program := []
  vars := []
  schedule := []
  draws := 0

end Sys2Proof.Machine
end

