-- ==== Sys2Proof/Machine/Ops.lean ====
section
/-! DEFINITION. The named updates of the state: recording an Error, the effects of the commands on the instance and
the flags, the register-file writes, the draw, and reset. -/

namespace Sys2Proof.Machine

/-- The outcome type of every meaning. -/
abbrev Result := Host.Outcome State Fault Refusal

/-- The sequencer position is Idle (R33). -/
def Seq.isIdle : Seq → Bool
  | .idle => true
  | .enc _ _ => false
  | .dec _ _ => false

/-- STATUS.BUSY (R29): 1 exactly when `seq` is not Idle. -/
def State.busy (s : State) : Bool := !s.seq.isIdle

/-- `raise Error(code)` (spec/60_exceptions.md R212, R217): the first code is kept, a later one sets ERROVF, and
nothing else changes. This is the block's only exception entry: there is no pc, status or mode to save (R210, R217).
The return from it is the STATUS write, `State.clearStatus` (R218). -/
def State.raise (s : State) (e : Error) : State :=
  match s.err with
  | none => { s with err := some e }
  | some _ => { s with errovf := true }

/-- The STATUS write of spec/40_commands.md R116: each of the four arguments clears one flag, and nothing else
changes. Clearing ERR is how the host acknowledges an Error (R218). -/
def State.clearStatus (s : State) (done warn errovf err : Bool) : State :=
  { s with
    done := s.done && !done
    warn := s.warn && !warn
    errovf := s.errovf && !errovf
    err := if err then none else s.err }

/-- A command that completes in its access sets STATUS.DONE (R31). -/
def State.complete (s : State) : State := { s with done := true }

/-- Record a fault in the fault field; one recorded before is kept (R37(a), R221). -/
def State.markFault (s : State) (f : FaultMark) : State :=
  match s.fault with
  | none => { s with fault := some f }
  | some _ => s

/-- `n` free values have been taken (R67(b), R220). -/
def State.drawn (s : State) (n : Nat) : State := { s with draws := s.draws + n }

/-- Every word of a register file has been written. -/
def allWritten (m : Marks) : Bool := decide (∀ w : Fin N, m[w] = true)

/-- What a register file holds for one who reads it: the written words, and a free value, numbered from `n`, for each
word that nothing has written since reset (R21, R22, R220). DESIGN CHOICE, safe: log entry 1. -/
def contents (file : Block) (marks : Marks) (n : Nat) : Block :=
  Vector.ofFn fun w : Fin N => if marks[w] then file[w] else Config.draw (n + w.val)

/-- A register file with these marks is consumed: where a word was never written, UnwrittenRead is recorded and the free
values of `contents` are taken (R112 to R114, R220). -/
def State.consume (s : State) (marks : Marks) : State :=
  if allWritten marks then s else (s.drawn N).markFault .unwrittenRead

/-- DATA as an accepted operation finds it (R113, R114). The marks are the engine's to set, with its first write
(R21). -/
def State.takeData (s : State) : State :=
  { s.consume s.dataWritten with data := contents s.data s.dataWritten s.draws }

/-- SETUP's effect (R112): KEY is a copy of the contents `key` of KEYIN (R141), the round count is new, the instance
exists, WARN is set where the count warns and is never cleared (R32), and the command completes. -/
def State.install (s : State) (key : Block) (rounds : Byte) (warns : Bool) : State :=
  { s with
    key := key
    rounds := rounds
    keyValid := true
    warn := s.warn || warns
    done := true }

/-- RELEASE's effect (R115). -/
def State.uninstall (s : State) : State :=
  { s with
    key := .replicate N 0
    rounds := 0
    keyValid := false
    done := true }

/-- Accepting ENCRYPT or DECRYPT (R113, R114): DONE is cleared and the sequencer starts at `q`. -/
def State.begin (s : State) (q : Seq) : State := { s with done := false, seq := q }

/-- `KEYIN[w] <- v`, and its mark (R65). -/
def State.writeKeyin (s : State) (w : Fin N) (v : Word) : State :=
  { s with keyin := s.keyin.set w v, keyinWritten := s.keyinWritten.set w true }

/-- `DATA[w] <- v`, and its mark (R65). -/
def State.writeData (s : State) (w : Fin N) (v : Word) : State :=
  { s with data := s.data.set w v, dataWritten := s.dataWritten.set w true }

/-- Set a host variable in a list of variables whose numbers rise, keeping them rising. -/
def assign (t : Nat) (v : BusWord) : List (Nat × BusWord) → List (Nat × BusWord)
  | [] => [(t, v)]
  | (u, x) :: rest =>
    if t < u then (t, v) :: (u, x) :: rest
    else if t = u then (t, v) :: rest
    else (u, x) :: assign t v rest

/-- `t<t> <- v` (R100). -/
def State.setVar (s : State) (t : Nat) (v : BusWord) : State := { s with vars := assign t v s.vars }

/-- `t<t> <- BusRead(off)` (R100): a read that was a bus error gives no value (R62), and the variable keeps its own.
DESIGN CHOICE: log entry 13. -/
def State.receive (s : State) (t : Nat) : Option BusWord → State
  | none => s
  | some v => s.setVar t v

/-- The value of a host variable, if it has one. -/
def State.var (s : State) (t : Nat) : Option BusWord := s.vars.lookup t

/-- The host has run its first statement. -/
def State.withProgram (s : State) (p : List Stmt) : State := { s with program := p }

/-- The first turn of the schedule has been used. -/
def State.turnUsed (s : State) : State := { s with schedule := s.schedule.tail }

/-- The reset event (R39, R240, R241): every piece of the block's state takes its reset value, also while an operation
runs. The fault field keeps its value (R221), and so do the host's program and variables, the schedule and the count of
draws, which are no state of the block. DEDUCED: log entry 10. -/
def State.resetBlock (s : State) : State :=
  { State.reset with
    fault := s.fault
    program := s.program
    vars := s.vars
    schedule := s.schedule
    draws := s.draws }

end Sys2Proof.Machine
end

