-- ==== Sys2Proof/Machine/Flags.lean ====
section
/-! DEFINITION. The values of the STATUS, CFG and ROUNDS registers as the host reads them, the STATUS write, and the
condition of the WARN flag (spec/10_state.md R26 to R34). -/

namespace Sys2Proof.Machine

/-- The code of an Error in STATUS.ERR (R211). -/
def Error.code : Error → BitVec 4
  | .invalidLength => 1
  | .illegalCommand => 2
  | .noKey => 3
  | .busy => 4

/-- STATUS.ERR, bits 11:8: 0 is no error (R34, R211). -/
def errField : Option Error → BitVec 4
  | none => 0
  | some e => e.code

/-- A flag as bit `i` of a register. -/
def flagBit (b : Bool) (i : Nat) : BusWord := if b then 1#32 <<< i else 0#32

/-- The STATUS value a read returns (R28, R64): ERRCLR and the reserved bits are 0. -/
def State.statusValue (s : State) : BusWord :=
  flagBit s.busy 0 ||| flagBit s.keyValid 1 ||| flagBit s.done 2 ||| flagBit s.warn 3 ||| flagBit s.errovf 4
    ||| (errField s.err).setWidth 32 <<< 8

/-- A write of `v` to STATUS (R116): bits 2, 3, 4 and 12 clear DONE, WARN, ERROVF and ERR; every other bit is ignored. -/
def State.writeStatus (s : State) (v : BusWord) : State :=
  s.clearStatus (v.getLsbD 2) (v.getLsbD 3) (v.getLsbD 4) (v.getLsbD 12)

/-- The CFG value (R26). -/
def cfgValue (c : Configuration) : BusWord :=
  BitVec.ofNat 32 N ||| (BitVec.ofNat 8 c.defaultRounds).setWidth 32 <<< 8
    ||| (BitVec.ofNat 8 c.safeMin).setWidth 32 <<< 16 ||| (BitVec.ofNat 8 c.safeMax).setWidth 32 <<< 24

/-- The ROUNDS value (R27, R64): bits 31:8 read 0. -/
def State.roundsValue (s : State) : BusWord := s.rounds.setWidth 32

/-- ConfigurationWarning (spec/41_key_schedule.md R144): an explicit round count outside the safe range warns, and the
sentinel 0 never does. -/
def warnsOf (c : Configuration) (rnd : Byte) : Bool :=
  rnd != 0 && (decide (rnd.toNat < c.safeMin) || decide (c.safeMax < rnd.toNat))

end Sys2Proof.Machine
end

