-- ==== Sys2Proof/Machine/Operands.lean ====
section
/-! DEFINITION. The operands of a command, LEN and RND, and the acceptance checks on them (spec/60_exceptions.md
R214). -/

namespace Sys2Proof.Machine

/-- The LEN check (spec/30_encoding.md R93): the declared length is `2*N` bytes. -/
def lengthOk (len : Byte) : Bool := len.toNat == blockBytes

/-- Round count resolution (spec/41_key_schedule.md R143): RND = 0 is DEFAULT_ROUNDS, any other value is the count. -/
def resolveRounds (c : Configuration) (rnd : Byte) : Byte :=
  if rnd = 0 then BitVec.ofNat 8 c.defaultRounds else rnd

/-- The acceptance checks of R110 and R214 on a decoded command, in their order: Busy, then InvalidLength where the
command has a LEN, then NoKey where it needs an instance. The first that fails decides the Error. (IllegalCommand, the
second check, is on words that decode to no command: `issue`.) -/
def acceptance (len : Option Byte) (needsKey : Bool) (s : State) : Option Error :=
  if s.busy then some .busy
  else if len.any fun l => !lengthOk l then some .invalidLength
  else if needsKey && !s.keyValid then some .noKey
  else none

/-- A command that passes its checks is accepted and runs; another is dropped with its Error and has no other effect
(R110, R117, R212). -/
def whenAccepted (len : Option Byte) (needsKey : Bool) (s : State) (run : State → Result) : Result :=
  match acceptance len needsKey s with
  | some e => .next (s.raise e)
  | none => run s

end Sys2Proof.Machine
end

