-- ==== Sys2Proof/Machine/Bus.lean ====
section
/-! DEFINITION. The register window: the map, the bus checks, reads, writes and the issue of a command
(spec/20_memory.md R60 to R69, spec/40_commands.md R110). -/

namespace Sys2Proof.Machine

/-- The offset of STATUS (R61). -/
def statusOffset : Byte := 0x04#8

/-- The offset of CMD (R61). -/
def cmdOffset : Byte := 0x08#8

/-- The offset of word `w` of the KEYIN region (R61). -/
def keyinOffset (w : Nat) : Byte := BitVec.ofNat 8 (0x40 + 4 * w)

/-- The offset of word `w` of the DATA region (R61). -/
def dataOffset (w : Nat) : Byte := BitVec.ofNat 8 (0x80 + 4 * w)

/-- The offset of a mapped register (R61). -/
def Reg.offset : Reg → Byte
  | .cfg => 0x00#8
  | .status => statusOffset
  | .cmd => cmdOffset
  | .rounds => 0x0C#8
  | .keyin w => keyinOffset w
  | .data w => dataOffset w

/-- The register at an aligned offset, or none where R61 marks it unmapped. -/
def regAt (off : Byte) : Option Reg :=
  if off.toNat = 0x00 then some .cfg
  else if off.toNat = 0x04 then some .status
  else if off.toNat = 0x08 then some .cmd
  else if off.toNat = 0x0C then some .rounds
  else if h : 0x40 ≤ off.toNat ∧ (off.toNat - 0x40) / 4 < N then some (.keyin ⟨(off.toNat - 0x40) / 4, h.2⟩)
  else if h : 0x80 ≤ off.toNat ∧ (off.toNat - 0x80) / 4 < N then some (.data ⟨(off.toNat - 0x80) / 4, h.2⟩)
  else none

/-- The bus checks of every access (R62, R63), in the order width, alignment, mapping (spec/60_exceptions.md R215). -/
def busCheck (width : Width) (off : Byte) : Except BusFaultKind Reg :=
  if width ≠ .w32 then .error .width
  else if off.toNat % 4 ≠ 0 then .error .misaligned
  else match regAt off with
    | none => .error .unmapped
    | some r => .ok r

/-- A read that returns a free value of 16 bits, zero-extended: a DATA read while BUSY (R67(b)), or the read of a word that
nothing has written, which records UnwrittenRead (R64, R220). -/
def readFree (unwritten : Bool) (s : State) : BusWord × State :=
  ((Config.draw s.draws).setWidth 32, if unwritten then (s.drawn 1).markFault .unwrittenRead else s.drawn 1)

/-- The value of a register read, and the state after it (R64). No read changes the block: a read of a free value changes
the model's own count of them, and the read of a word that nothing has written the fault field. -/
def readReg (c : Configuration) (r : Reg) (s : State) : BusWord × State :=
  match r with
  | .cfg => (cfgValue c, s)
  | .status => (s.statusValue, s)
  | .cmd => (0, s)
  | .rounds => (s.roundsValue, s)
  | .keyin w => if s.keyinWritten[w] then ((s.keyin[w]).setWidth 32, s) else readFree true s
  | .data w =>
    if s.busy then readFree false s
    else if s.dataWritten[w] then ((s.data[w]).setWidth 32, s)
    else readFree true s

/-- `BusRead(off)` (R64). An access outside the map is recorded as a BusFault, with no value and no other effect (R62,
R63). -/
def busRead (c : Configuration) (width : Width) (off : Byte) (s : State) : Option BusWord × State :=
  match busCheck width off with
  | .error k => (none, s.markFault (.busFault k))
  | .ok r => (some (readReg c r s).1, (readReg c r s).2)

/-- Issuing a command word (spec/40_commands.md R110, R214): Busy before decode, IllegalCommand for a word that is no
command, and otherwise the command's own meaning `run`, which makes the later checks. -/
def issue (run : Instr → State → Result) (word : BusWord) (s : State) : Result :=
  if s.busy then .next (s.raise .busy)
  else match decode word with
    | .error _ => .next (s.raise .illegalCommand)
    | .ok i => run i s

/-- A register write (R65): bits 31:16 of a KEYIN or DATA write are ignored (R66). -/
def writeReg (run : Instr → State → Result) (r : Reg) (v : BusWord) (s : State) : Result :=
  match r with
  | .cfg => .next s
  | .status => .next (s.writeStatus v)
  | .cmd => issue run v s
  | .rounds => .next s
  | .keyin w => .next (s.writeKeyin w (v.setWidth 16))
  | .data w => if s.busy then .next (s.raise .busy) else .next (s.writeData w (v.setWidth 16))

/-- `BusWrite(off, v)` (R65). An access outside the map is recorded as a BusFault, with no other effect (R62, R63). -/
def busWrite (run : Instr → State → Result) (width : Width) (off : Byte) (v : BusWord) (s : State) : Result :=
  match busCheck width off with
  | .error k => .next (s.markFault (.busFault k))
  | .ok r => writeReg run r v s

/-- The host bus address of an offset: `addr = BASE + off` (spec/00_scope.md R9, R60). -/
def busAddress (c : Configuration) (off : Byte) : Nat := c.base + off.toNat

/-- The offset of a host bus address in the 256-byte window, or none outside it: such an access is not to this block
(R60, R226). -/
def windowOffset (c : Configuration) (addr : Nat) : Option Byte :=
  if c.base ≤ addr ∧ addr < c.base + 256 then some (BitVec.ofNat 8 (addr - c.base)) else none

end Sys2Proof.Machine
end

