-- ==== Sys2Proof/Machine/Cipher.lean ====
section
/-! DEFINITION. ENCRYPT and DECRYPT: the acceptance of an operation (spec/40_commands.md R113, R114). The engine then
runs it (Machine/Engine.lean). -/

namespace Sys2Proof.Machine

/-- An operation that starts at `q`, of a declared length: Busy, InvalidLength, NoKey, then the marks of DATA, then
the start (R113, R114). A DATA word that nothing has written is a free value, with UnwrittenRead recorded (R220, log
entry 1). -/
def startOperation (q : Seq) (len : Byte) (s : State) : Result :=
  whenAccepted (some len) true s fun s => .next (s.takeData.begin q)

/-- ENCRYPT (R113). -/
def execEncrypt (len : Byte) (s : State) : Result := startOperation (.enc 0 .ek0) len s

/-- DECRYPT (R114). -/
def execDecrypt (len : Byte) (s : State) : Result := startOperation (.dec 0 .dkey) len s

end Sys2Proof.Machine
end

