-- ==== Sys2Proof/Machine/Control.lean ====
section
/-! DEFINITION. NOP (spec/40_commands.md R111). -/

namespace Sys2Proof.Machine

/-- NOP (R111): accepted when idle, it sets DONE and changes nothing else. -/
def execNop (s : State) : Result :=
  whenAccepted none false s fun s => .next s.complete

end Sys2Proof.Machine
end

