-- ==== Sys2Proof/Machine/Layers.lean ====
section
/-! DEFINITION. The six datapath layers (spec/42_round_layers.md): pure functions on N words. -/

namespace Sys2Proof.Machine

/-- AddKey (R150): `S[w] ^ KEY[w]` for every word. -/
def addKey (key S : Block) : Block := Vector.ofFn fun w : Fin N => S[w] ^^^ key[w]

/-- `RC(k) = LBox1[k]` (spec/41_key_schedule.md R145), for a byte index `k`; an index above 255 occurs in no run.
DESIGN CHOICE, safe: log entry 12. -/
def roundConstant (c : Configuration) (k : Nat) : Word := c.lbox1 (BitVec.ofNat 8 k)

/-- AddRC (R151): the round constant is XORed into word 0 only. -/
def addRC (c : Configuration) (k : Nat) (S : Block) : Block := S.set 0 (S[0] ^^^ roundConstant c k)

/-- Column `j` (R153): bit `w` of the column is bit `j` of word `w`. -/
def column (S : Block) (j : Fin 16) : Column := BitVec.ofFnLE fun w : Fin N => (S[w]).getLsbD j

/-- One column function on all 16 columns: bit `j` of word `w` of the result is bit `w` of `f` of column `j` (R154,
R155). -/
def onColumns (f : Column → Column) (S : Block) : Block :=
  Vector.ofFn fun w : Fin N => BitVec.ofFnLE fun j : Fin 16 => (f (column S j)).getLsbD w

/-- Sub (R155). -/
def sub (c : Configuration) (S : Block) : Block := onColumns c.sboxCol S

/-- InvSub (R158). -/
def invSub (c : Configuration) (S : Block) : Block := onColumns c.sboxColInv S

/-- `x[15:8]` (spec/00_scope.md R7). -/
def highByte (x : Word) : Byte := x.extractLsb' 8 8

/-- `x[7:0]` (spec/00_scope.md R7). -/
def lowByte (x : Word) : Byte := x.extractLsb' 0 8

/-- Lin on one word (R160): the high byte indexes LBox1, the low byte LBox2. -/
def linWord (c : Configuration) (x : Word) : Word := c.lbox1 (highByte x) ^^^ c.lbox2 (lowByte x)

/-- InvLin on one word (R164). -/
def invLinWord (c : Configuration) (x : Word) : Word := c.ilbox1 (highByte x) ^^^ c.ilbox2 (lowByte x)

/-- Lin (R161): each word by itself. -/
def lin (c : Configuration) (S : Block) : Block := Vector.ofFn fun w : Fin N => linWord c S[w]

/-- InvLin (R164): each word by itself. -/
def invLin (c : Configuration) (S : Block) : Block := Vector.ofFn fun w : Fin N => invLinWord c S[w]

/-- The layers, by name; AddRC with its constant index. -/
inductive Layer where
  | addKey
  | addRC (k : Nat)
  | sub
  | invSub
  | lin
  | invLin
  deriving DecidableEq, Repr

/-- What a layer does to a state under a key. -/
def Layer.apply (c : Configuration) (key : Block) : Layer → Block → Block
  | .addKey, S => Machine.addKey key S
  | .addRC k, S => Machine.addRC c k S
  | .sub, S => Machine.sub c S
  | .invSub, S => Machine.invSub c S
  | .lin, S => Machine.lin c S
  | .invLin, S => Machine.invLin c S

end Sys2Proof.Machine
end

