-- ==== Sys2Proof/Machine/Engine.lean ====
section
/-! DEFINITION. The engine sequencer: one layer a step (spec/43_encrypt_decrypt.md R190 to R193). -/

namespace Sys2Proof.Machine

/-- The layer of a sequencer position (R191, R192), where `R` is the round count. The index of an AddRC is i + 1 in
encryption round `i` and R - i in decryption round `i` (spec/41_key_schedule.md R146, R147). -/
def layerAt (R : Nat) : Seq → Option Layer
  | .idle => none
  | .enc _ .ek0 => some .addKey
  | .enc i .erc => some (.addRC (i + 1))
  | .enc _ .esub => some .sub
  | .enc _ .elin => some .lin
  | .enc _ .ekey => some .addKey
  | .dec _ .dkey => some .addKey
  | .dec _ .dilin => some .invLin
  | .dec _ .disub => some .invSub
  | .dec i .drc => some (.addRC (R - i))
  | .dec _ .dkf => some .addKey

/-- The constant index of an AddRC step, which a test can observe (R148); none at every other position. -/
def constantIndex (R : Nat) (q : Seq) : Option Nat :=
  match layerAt R q with
  | some (.addRC k) => some k
  | _ => none

/-- The successor of a sequencer position (R191, R192); Idle is completion (R193). -/
def nextSeq (R : Nat) : Seq → Seq
  | .idle => .idle
  | .enc i .ek0 => .enc i .erc
  | .enc i .erc => .enc i .esub
  | .enc i .esub => .enc i .elin
  | .enc i .elin => .enc i .ekey
  | .enc i .ekey => if i + 1 < R then .enc (i + 1) .erc else .idle
  | .dec i .dkey => .dec i .dilin
  | .dec i .dilin => .dec i .disub
  | .dec i .disub => .dec i .drc
  | .dec i .drc => if i + 1 < R then .dec (i + 1) .dkey else .dec R .dkf
  | .dec _ .dkf => .idle

/-- One engine step (R190, R193, R196): a layer on DATA, the successor position, and DONE at completion. Nothing else
changes. The step writes the whole of DATA, and an engine write sets the mark (R21). An idle engine has no step (R190):
its turn changes nothing. -/
def engineStep (c : Configuration) (s : State) : State :=
  match layerAt s.rounds.toNat s.seq with
  | none => s
  | some l =>
    { s with
      data := l.apply c s.key s.data
      dataWritten := .replicate N true
      seq := nextSeq s.rounds.toNat s.seq
      done := s.done || (nextSeq s.rounds.toNat s.seq).isIdle }

/-- `n` engine steps in a row. -/
def engineSteps (c : Configuration) : Nat → State → State
  | 0, s => s
  | n + 1, s => engineSteps c n (engineStep c s)

end Sys2Proof.Machine
end

