-- ==== Sys2Proof/Machine/Instance.lean ====
section
/-! DEFINITION. SETUP and RELEASE: the life cycle of the instance (spec/40_commands.md R112, R115). -/

namespace Sys2Proof.Machine

/-- SETUP under a configuration (R112): Busy, InvalidLength, then the marks of KEYIN, then the instance. A KEYIN word that
nothing has written gives KEY a free value, with UnwrittenRead recorded (R220, log entry 1). -/
def setup (c : Configuration) (len rnd : Byte) (s : State) : Result :=
  whenAccepted (some len) false s fun s =>
    .next ((s.consume s.keyinWritten).install (contents s.keyin s.keyinWritten s.draws) (resolveRounds c rnd)
      (warnsOf c rnd))

/-- SETUP on the chip (R112). -/
def execSetup (len rnd : Byte) (s : State) : Result := setup Config.chip.cfg len rnd s

/-- RELEASE (R115): accepted when idle, with or without an instance. -/
def execRelease (s : State) : Result :=
  whenAccepted none false s fun s => .next s.uninstall

end Sys2Proof.Machine
end

