-- ==== Sys2Proof/Machine/Agents.lean ====
section
/-! DEFINITION. The moves of the host, the engine and the platform, and whose turn it is (spec/00_scope.md R11,
spec/20_memory.md R74, spec/70_reset_and_hazards.md R240, R250). -/

namespace Sys2Proof.Machine

/-- A command under any configuration. On the chip's it is `exec` (Sys2Proof/Laws/Step.lean). -/
def commandUnder (c : Configuration) (i : Instr) (s : State) : Result :=
  match i with
  | .nop => execNop s
  | .setup len rnd => setup c len rnd s
  | .encrypt len => execEncrypt len s
  | .decrypt len => execDecrypt len s
  | .release => execRelease s

/-- The host runs the first statement of its program (R11(a), R100). A write or a read is one bus access and moves the
host past its statement. POLL reads STATUS and stays while bit 0 of the value read is 1. A host whose program has ended
has no move: its turn changes nothing. -/
def hostMove (c : Configuration) (run : Instr → State → Result) (s : State) : Result :=
  match s.program with
  | [] => .next s
  | .write width off v :: rest => busWrite run width off v (s.withProgram rest)
  | .read width off t :: rest =>
    .next ((busRead c width off (s.withProgram rest)).2.receive t (busRead c width off (s.withProgram rest)).1)
  | .poll t :: rest =>
    .next ((if s.statusValue.getLsbD 0 then s else s.withProgram rest).setVar t s.statusValue)

/-- Whose turn it is. The schedule says so as long as it lasts. After it, the engine goes on while an operation runs,
and then the host while it has statements: so every operation completes, which is R250's fairness. None when nothing is
left to do: the block waits (R240). DESIGN CHOICE, unsafe for the order after the schedule: log entry 4. -/
def turnOf (s : State) : Option Turn :=
  match s.schedule with
  | t :: _ => some t
  | [] => if s.busy then some .engine else if s.program.isEmpty then none else some .host

/-- One turn of an agent (R11). -/
def move (c : Configuration) (run : Instr → State → Result) (t : Turn) (s : State) : Result :=
  match t with
  | .host => hostMove c run s
  | .engine => .next (engineStep c s)
  | .reset => .next s.resetBlock

/-- One step of the model. A fault in the fault field is neither read nor waited for: neither the host nor the engine can
observe it (R37), the engine has its step exactly while an operation runs (R190), and no host action can stop it
(R197). DESIGN CHOICE, safe: log entry 8. -/
def stepBy (c : Configuration) (run : Instr → State → Result) (s : State) : Result :=
  match turnOf s with
  | none => .next s
  | some t => move c run t s.turnUsed

/-- The model under any configuration: one that is not well formed is refused (spec/60_exceptions.md R222). -/
def stepUnder (c : Configuration) (s : State) : Result :=
  if c.WellFormed then stepBy c (commandUnder c) s else .refused .illFormedConfiguration

/-- Put the write of a command word to CMD first in the host's program, and give the host the next turn. -/
def placeCommand (s : State) (word : BusWord) : State :=
  { s with program := .write .w32 cmdOffset word :: s.program, schedule := .host :: s.schedule }

end Sys2Proof.Machine
end

