-- ==== Sys2Proof/Machine/Step.lean ====
section
/-! DEFINITION. The step of the machine on the chip's configuration, and where the next command is placed. -/

namespace Sys2Proof.Machine

/-- One step: one host access, one engine step or one reset, as whose turn it is (spec/00_scope.md R11,
spec/70_reset_and_hazards.md R251). A command issued by a CMD write runs as `exec`. -/
def step (s : State) : Host.Outcome State Fault Refusal := stepBy Config.chip.cfg exec s

/-- The state in which the very next step is the host's CMD write of the command whose bits are `w` (the block fetches
nothing, R25, R77: a command comes by a bus write, R110). -/
def State.withFetchWord (s : State) (nbits w : Nat) : State :=
  placeCommand s (BitVec.ofNat 32 (w % 2 ^ nbits))

end Sys2Proof.Machine
end

