-- ==== Sys2Proof/Machine/Datapath.lean ====
section
/-! DEFINITION. Encryption and decryption as functions of the block (spec/43_encrypt_decrypt.md R180, R181). The
engine does not call them; it applies one layer a step, and R194 says that it computes them. -/

namespace Sys2Proof.Machine

/-- Encryption round `i`: AddRC with index i + 1, Sub, Lin, AddKey (R180, steps 2a to 2d). -/
def encRound (c : Configuration) (key : Block) (i : Nat) (S : Block) : Block :=
  addKey key (lin c (sub c (addRC c (i + 1) S)))

/-- `n` encryption rounds, the first of them round `i`. -/
def encRounds (c : Configuration) (key : Block) : (n i : Nat) → Block → Block
  | 0, _, S => S
  | n + 1, i, S => encRounds c key n (i + 1) (encRound c key i S)

/-- `Encrypt_{K,R}` (R180). -/
def encryptBlock (c : Configuration) (key : Block) (R : Nat) (S : Block) : Block :=
  encRounds c key R 0 (addKey key S)

/-- Decryption round `i` of `R`: AddKey, InvLin, InvSub, and AddRC with index R - i last (R181, R183). -/
def decRound (c : Configuration) (key : Block) (R i : Nat) (S : Block) : Block :=
  addRC c (R - i) (invSub c (invLin c (addKey key S)))

/-- `n` decryption rounds of `R`, the first of them round `i`. -/
def decRounds (c : Configuration) (key : Block) (R : Nat) : (n i : Nat) → Block → Block
  | 0, _, S => S
  | n + 1, i, S => decRounds c key R n (i + 1) (decRound c key R i S)

/-- `Decrypt_{K,R}` (R181), with the final AddKey of R184. -/
def decryptBlock (c : Configuration) (key : Block) (R : Nat) (S : Block) : Block :=
  addKey key (decRounds c key R R 0 S)

end Sys2Proof.Machine
end

