-- ==== Sys2Proof/Machine/HostProgram.lean ====
section
/-! DEFINITION. The textual forms of host programs (spec/30_encoding.md R100), as the statements they expand to, and the
byte order of blocks and keys (spec/20_memory.md R70 to R72). -/

namespace Sys2Proof.Machine

/-- The register names of R100: KEYIN0..KEYIN15 and DATA0..DATA15 name the words of the two 64-byte regions, those
from N on being unmapped. -/
inductive RegName where
  | cfg
  | status
  | cmd
  | rounds
  | keyin (w : Fin 16)
  | data (w : Fin 16)
  deriving DecidableEq, Repr

/-- `offset(<reg>)` (R100, R61). -/
def RegName.offset : RegName → Byte
  | .cfg => Reg.cfg.offset
  | .status => statusOffset
  | .cmd => cmdOffset
  | .rounds => Reg.rounds.offset
  | .keyin w => keyinOffset w
  | .data w => dataOffset w

/-- `WR <reg>, <imm32>`. -/
def wr (r : RegName) (v : BusWord) : Stmt := .write .w32 r.offset v

/-- `RD <reg> -> t<n>`. -/
def rd (r : RegName) (t : Nat) : Stmt := .read .w32 r.offset t

/-- `CMD <command>`: a write of the command's encoding to CMD. -/
def cmd (i : Instr) : Stmt := wr .cmd (encode i)

/-- Word `w` of a byte sequence: byte `2w` is bits 7:0, byte `2w + 1` is bits 15:8 (R70). -/
def packWord (lo hi : Byte) : Word := hi.setWidth 16 <<< 8 ||| lo.setWidth 16

theorem lowByte_lt (w : Fin N) : 2 * w.val < blockBytes := by
  show 2 * w.val < 2 * N
  omega

theorem highByte_lt (w : Fin N) : 2 * w.val + 1 < blockBytes := by
  show 2 * w.val + 1 < 2 * N
  omega

theorem wordOf_lt (i : Fin blockBytes) : i.val / 2 < N := Nat.div_lt_of_lt_mul i.isLt

/-- The words of a block or key of `2*N` bytes (R70 to R72). -/
def packBytes (b : Vector Byte blockBytes) : Block :=
  Vector.ofFn fun w : Fin N => packWord (b[2 * w.val]'(lowByte_lt w)) (b[2 * w.val + 1]'(highByte_lt w))

/-- Byte `i` of a block: `byte[2w]` is bits 7:0 of word `w`, `byte[2w + 1]` is bits 15:8 (R70, R71). -/
def unpackBytes (S : Block) : Vector Byte blockBytes :=
  Vector.ofFn fun i : Fin blockBytes =>
    if i.val % 2 = 0 then (S[i.val / 2]'(wordOf_lt i)).extractLsb' 0 8 else (S[i.val / 2]'(wordOf_lt i)).extractLsb' 8 8

/-- A write of each word of a block to the region whose register names are `r`. -/
def loadWords (r : Fin 16 → RegName) (S : Block) : List Stmt :=
  List.ofFn fun w : Fin N => wr (r (w.castLE (by decide))) ((S[w]).setWidth 32)

/-- `LOADKEY k0..k(2N-1)`. -/
def loadKey (k : Vector Byte blockBytes) : List Stmt := loadWords .keyin (packBytes k)

/-- `LOADBLOCK b0..b(2N-1)`. -/
def loadBlock (b : Vector Byte blockBytes) : List Stmt := loadWords .data (packBytes b)

/-- `STOREBLOCK -> t<first>..`: a read of each DATA word. -/
def storeBlock (first : Nat) : List Stmt :=
  List.ofFn fun w : Fin N => rd (.data (w.castLE (by decide))) (first + w.val)

/-- `CLRSTATUS`: clears DONE, WARN, ERROVF and ERR. -/
def clrStatus : List Stmt := [wr .status 0x0000101C#32]

/-- `ENC`: ENCRYPT of `2*N` bytes, then POLL into `t<t>`. -/
def encProgram (t : Nat) : List Stmt := [cmd (.encrypt (BitVec.ofNat 8 blockBytes)), .poll t]

/-- `DEC`: DECRYPT of `2*N` bytes, then POLL into `t<t>`. -/
def decProgram (t : Nat) : List Stmt := [cmd (.decrypt (BitVec.ofNat 8 blockBytes)), .poll t]

end Sys2Proof.Machine
end

