-- ==== Sys2Proof/Safety.lean ====
section
/-! DEFINITION. The terms claims use: legal states, the end of a run and its
observation, and the layers and constant indices of an operation. -/

namespace Sys2Proof.Machine

/-- The instance registers agree with KEY_VALID: with an instance the round count is at least 1 (and at most 255 by its
width), and with none ROUNDS and KEY are 0 (spec/10_state.md R23, R27, R30, R39). -/
abbrev InstanceLegal (s : State) : Prop :=
  if s.keyValid then 1 ≤ s.rounds.toNat else s.rounds = 0 ∧ s.key = .replicate N 0

/-- A sequencer position of an operation of `R` rounds: one that the tables of R191 and R192 visit. -/
def positionLegal (R : Nat) : Seq → Bool
  | .idle => true
  | .enc i .ek0 => decide (i = 0 ∧ 1 ≤ R)
  | .enc i _ => decide (i < R)
  | .dec i .dkf => decide (i = R)
  | .dec i _ => decide (i < R)

/-- The position an accepted operation starts at (R113, R114). -/
def Seq.isStart : Seq → Bool
  | .enc _ .ek0 => true
  | .dec i .dkey => i == 0
  | _ => false

/-- An operation runs only with an instance, and after its first engine step every DATA word is written (R113, R114,
R21, R196). -/
abbrev OperationLegal (s : State) : Prop :=
  s.busy = true → s.keyValid = true ∧ (s.seq.isStart = false → allWritten s.dataWritten = true)

/-- The numbers of the host variables rise. -/
abbrev VarsLegal (s : State) : Prop := s.vars.Pairwise fun a b => a.1 < b.1

/-- A legal state: the invariant of the machine. -/
abbrev Legal (s : State) : Prop :=
  InstanceLegal s ∧ positionLegal s.rounds.toNat s.seq = true ∧ OperationLegal s ∧ VarsLegal s

/-- A run has ended (spec/70_reset_and_hazards.md R252): the host has run its last statement, the engine is idle and no
fault is recorded. -/
abbrev runEnded (s : State) : Prop := s.program = [] ∧ s.seq = .idle ∧ s.fault = none

/-- What is observed at the end of a run (R252): the registers a read of R64 gives a value for, and KEY, ROUNDS and
STATUS. A word that is not written gives none. -/
structure Observation where
  cfg : BusWord
  status : BusWord
  rounds : BusWord
  keyin : Vector (Option Word) N
  data : Vector (Option Word) N
  key : Block
  deriving DecidableEq, Repr

/-- A register file as its written words. -/
def readableWords (file : Block) (marks : Marks) : Vector (Option Word) N :=
  Vector.ofFn fun w : Fin N => if marks[w] then some file[w] else none

/-- The observation of an ended run (R252), and none of a run that has not ended or has faulted. -/
def observe (c : Configuration) (s : State) : Option Observation :=
  if runEnded s then
    some
      { cfg := cfgValue c
        status := s.statusValue
        rounds := s.roundsValue
        keyin := readableWords s.keyin s.keyinWritten
        data := readableWords s.data s.dataWritten
        key := s.key }
  else none

/-- The layers the next `n` engine steps apply, in order (spec/43_encrypt_decrypt.md R191, R192). -/
def layerTrace (c : Configuration) : Nat → State → List Layer
  | 0, _ => []
  | n + 1, s => (layerAt s.rounds.toNat s.seq).toList ++ layerTrace c n (engineStep c s)

/-- The constant indices of the next `n` engine steps, in order (spec/41_key_schedule.md R148). -/
def indexTrace (c : Configuration) : Nat → State → List Nat
  | 0, _ => []
  | n + 1, s => (constantIndex s.rounds.toNat s.seq).toList ++ indexTrace c n (engineStep c s)

/-- The next move is the host's write of `v` at offset `off`, as a whole aligned word. -/
abbrev hostWrites (s : State) (off : Byte) (v : BusWord) : Prop :=
  turnOf s = some .host ∧ ∃ rest, s.program = .write .w32 off v :: rest

/-- The next move is the host's CMD write of a word that decodes to `i`. -/
abbrev hostIssues (s : State) (i : Instr) : Prop :=
  ∃ v, hostWrites s cmdOffset v ∧ decode v = .ok i

end Sys2Proof.Machine
end

