-- ==== Sys2Proof/Certificates/Slice0/Obligations.lean ====
section
/-! DEFINITION. The statements for the provers, each from a numbered rule of spec/. `Config.chip.cfg` is the chip's
configuration, which has no body: a statement about it holds for every configuration the model admits. -/

section Statements

open Sys2Proof Sys2Proof.Machine

/-! ### The command word (spec/30_encoding.md) -/

/-- The worked encodings of R95 and of section 2.8.1 of spec/95_test_vectors.md decode to their commands. -/
def Obligations.WorkedWordsDecode : Prop :=
  decode 0x00000000#32 = .ok .nop ∧ decode 0x00100001#32 = .ok (.setup 16 0) ∧
    decode 0x00101001#32 = .ok (.setup 16 16) ∧ decode 0x0010FF01#32 = .ok (.setup 16 255) ∧
    decode 0x00100002#32 = .ok (.encrypt 16) ∧ decode 0x00100003#32 = .ok (.decrypt 16) ∧
    decode 0x00000004#32 = .ok .release ∧ decode 0x000F0002#32 = .ok (.encrypt 15)

/-- Decoding and encoding agree: a word decodes to a command exactly when it is that command's encoding, for every value
of LEN and RND, so no bit of an encoding is dropped and no other word is the command (R90, R92, R93, R95, R96). -/
def Obligations.DecodeInvertsEncode : Prop :=
  ∀ (i : Instr) (word : BusWord), i.wellFormed = true → (decode word = .ok i ↔ word = encode i)

/-- R96 whole: the rows are those of R95 and disjoint, a word decodes to the row with `(c & mask) = match`, and a word
that matches no row decodes to no command and, issued, raises Error(IllegalCommand). -/
def Obligations.DecodingIsByMaskAndMatch : Prop :=
  (opcodeRows.map fun r => (r.mnemonic, r.mask, r.pattern)) =
      [("NOP", 0xFFFFFFFF#32, 0x00000000#32), ("SETUP", 0xFF0000FF#32, 0x00000001#32),
        ("ENCRYPT", 0xFF00FFFF#32, 0x00000002#32), ("DECRYPT", 0xFF00FFFF#32, 0x00000003#32),
        ("RELEASE", 0xFFFFFFFF#32, 0x00000004#32)] ∧
    (∀ word : BusWord, ∀ r ∈ opcodeRows, ∀ q ∈ opcodeRows, word &&& r.mask = r.pattern →
      word &&& q.mask = q.pattern → r.mnemonic = q.mnemonic) ∧
    (∀ word : BusWord, ∀ r ∈ opcodeRows, word &&& r.mask = r.pattern →
      decode word = .ok (r.build (lenField word) (rndField word))) ∧
    (∀ word : BusWord, (∀ r ∈ opcodeRows, word &&& r.mask ≠ r.pattern) →
      (∃ e, decode word = .error e) ∧
        ∀ s : State, s.busy = false →
          busWrite exec .w32 cmdOffset word s = .next (s.raise .illegalCommand))

/-- R94 and R97, and with them R98: a word with a reserved field, a reserved OP or an unused field that is not zero decodes
to no command and raises Error(IllegalCommand) on an idle block, with no other effect; every other word is a command. -/
def Obligations.IllegalWordsAreExactlyThese : Prop :=
  ∀ (word : BusWord) (s : State), s.busy = false →
    if rsv0Field word ≠ 0 ∨ rsv1Field word ≠ 0 ∨ 5 ≤ (opField word).toNat ∨
        ((opField word).toNat ≠ 1 ∧ rndField word ≠ 0) ∨
        (((opField word).toNat = 0 ∨ (opField word).toNat = 4) ∧ lenField word ≠ 0) then
      (∃ e, decode word = .error e) ∧ busWrite exec .w32 cmdOffset word s = .next (s.raise .illegalCommand)
    else ∃ i : Instr, decode word = .ok i

/-! ### The commands (spec/40_commands.md) -/

/-- R111: NOP on an idle block sets DONE and changes nothing else; while BUSY it is Error(Busy); its word is 0, and any
other word with OP = 0 is Error(IllegalCommand). -/
def Obligations.NopOnlySetsDone : Prop :=
  (∀ s : State, s.busy = false → exec .nop s = .next { s with done := true }) ∧
    (∀ s : State, s.busy = true → exec .nop s = .next (s.raise .busy)) ∧
    decode 0#32 = .ok .nop ∧
    ∀ (word : BusWord) (s : State), opField word = 0 → word ≠ 0 → s.busy = false →
      busWrite exec .w32 cmdOffset word s = .next (s.raise .illegalCommand)

/-- R112, R141 and R144: SETUP is dropped with Error(Busy) while BUSY and with Error(InvalidLength) for LEN not 2N; accepted
it copies KEYIN to KEY, resolves the round count (0 is DEFAULT_ROUNDS), sets KEY_VALID and DONE, sets WARN exactly when an
explicit count is outside the safe range and never clears it, and with every KEYIN word written changes nothing else; with
a KEYIN word that was never written it also records the fault UnwrittenRead, and goes on with some value for that word
(log entry 1). Its word has RND in bits 15:8 and LEN in bits 23:16, and one with a reserved field that is not zero is
Error(IllegalCommand). -/
def Obligations.SetupInstallsTheInstance : Prop :=
  (∀ len rnd : Byte, decode (len.setWidth 32 <<< 16 ||| rnd.setWidth 32 <<< 8 ||| 1#32) = .ok (.setup len rnd)) ∧
  (∀ (word : BusWord) (s : State), opField word = 1 → rsv0Field word ≠ 0 ∨ rsv1Field word ≠ 0 → s.busy = false →
    busWrite exec .w32 cmdOffset word s = .next (s.raise .illegalCommand)) ∧
  ∀ (len rnd : Byte) (s : State),
    (s.busy = true → exec (.setup len rnd) s = .next (s.raise .busy)) ∧
      (s.busy = false → len.toNat ≠ 2 * N → exec (.setup len rnd) s = .next (s.raise .invalidLength)) ∧
      (s.busy = false → len.toNat = 2 * N → (∃ w : Fin N, s.keyinWritten[w] = false) →
        ∃ t : State, exec (.setup len rnd) s = .next t ∧
          t = { s with
            key := t.key
            rounds := if rnd = 0 then BitVec.ofNat 8 Config.chip.cfg.defaultRounds else rnd
            keyValid := true
            warn := s.warn || decide (rnd ≠ 0 ∧
              (rnd.toNat < Config.chip.cfg.safeMin ∨ Config.chip.cfg.safeMax < rnd.toNat))
            done := true
            fault := some (s.fault.getD .unwrittenRead)
            draws := t.draws } ∧
          ∀ w : Fin N, s.keyinWritten[w] = true → t.key[w] = s.keyin[w]) ∧
      (s.busy = false → len.toNat = 2 * N → (∀ w : Fin N, s.keyinWritten[w] = true) →
        exec (.setup len rnd) s = .next
          { s with
            key := s.keyin
            rounds := if rnd = 0 then BitVec.ofNat 8 Config.chip.cfg.defaultRounds else rnd
            keyValid := true
            warn := s.warn || decide (rnd ≠ 0 ∧
              (rnd.toNat < Config.chip.cfg.safeMin ∨ Config.chip.cfg.safeMax < rnd.toNat))
            done := true })

/-- R143 and R6 on the machine: right after an accepted SETUP the round count is in 1..255, and it is DEFAULT_ROUNDS
itself for the sentinel 0 (no bit of the parameter is lost). -/
def Obligations.SetupRoundCountInRange : Prop :=
  ∀ (len rnd : Byte) (s t : State), s.busy = false → len.toNat = 2 * N →
    exec (.setup len rnd) s = .next t →
    1 ≤ t.rounds.toNat ∧ t.rounds.toNat ≤ 255 ∧
      (rnd = 0 → t.rounds.toNat = Config.chip.cfg.defaultRounds) ∧
      (rnd ≠ 0 → t.rounds.toNat = rnd.toNat) ∧ (rnd = 0 → t.warn = s.warn)

/-- The acceptance of ENCRYPT and DECRYPT (R113, R114): Error(Busy), Error(InvalidLength) and Error(NoKey) in that order, and
otherwise DONE is cleared and the sequencer starts at Run(Enc, 0, EK0) or Run(Dec, 0, DKEY); with every DATA word written
nothing else changes, and an accepted one that finds a DATA word that was never written also records the fault
UnwrittenRead and goes on with some value in that word (log entry 1). -/
def Obligations.OperationsStart : Prop :=
  ∀ (len : Byte) (s : State) (i : Instr) (q : Seq),
    (i = .encrypt len ∧ q = .enc 0 .ek0) ∨ (i = .decrypt len ∧ q = .dec 0 .dkey) →
    (s.busy = true → exec i s = .next (s.raise .busy)) ∧
      (s.busy = false → len.toNat ≠ 2 * N → exec i s = .next (s.raise .invalidLength)) ∧
      (s.busy = false → len.toNat = 2 * N → s.keyValid = false → exec i s = .next (s.raise .noKey)) ∧
      (s.busy = false → len.toNat = 2 * N → s.keyValid = true → (∃ w : Fin N, s.dataWritten[w] = false) →
        ∃ t : State, exec i s = .next t ∧
          t = { s with
            data := t.data
            done := false
            seq := q
            fault := some (s.fault.getD .unwrittenRead)
            draws := t.draws } ∧
          ∀ w : Fin N, s.dataWritten[w] = true → t.data[w] = s.data[w]) ∧
      (s.busy = false → len.toNat = 2 * N → s.keyValid = true → (∀ w : Fin N, s.dataWritten[w] = true) →
        exec i s = .next { s with done := false, seq := q })

/-- R115: RELEASE on an idle block, with or without an instance, clears KEY, ROUNDS and KEY_VALID, sets DONE and leaves
DATA, KEYIN and all else alone; as long as KEY_VALID is as it left it, an ENCRYPT or DECRYPT of 2N bytes on an idle block
raises Error(NoKey). While BUSY it is Error(Busy). Its word is 0x00000004, and any other word with OP = 4 is
Error(IllegalCommand). -/
def Obligations.ReleaseDestroysTheInstance : Prop :=
  (∀ s : State, s.busy = false →
      exec .release s = .next
        { s with key := Vector.replicate N 0, rounds := 0, keyValid := false, done := true } ∧
      ∀ (t u : State) (len : Byte), exec .release s = .next t → u.keyValid = t.keyValid → u.busy = false →
        len.toNat = 2 * N →
        exec (.encrypt len) u = .next (u.raise .noKey) ∧ exec (.decrypt len) u = .next (u.raise .noKey)) ∧
    (∀ s : State, s.busy = true → exec .release s = .next (s.raise .busy)) ∧
    decode 0x00000004#32 = .ok .release ∧
    ∀ (word : BusWord) (s : State), opField word = 4 → word ≠ 4 → s.busy = false →
      busWrite exec .w32 cmdOffset word s = .next (s.raise .illegalCommand)

/-- R214: the acceptance checks of a CMD write in their order, the first that fails deciding the one Error and recording no
fault; and after every check has passed no Error, and the fault UnwrittenRead exactly from a word that was never written
(recorded, and the command goes on: log entry 1). -/
def Obligations.AcceptanceChecksInOrder : Prop :=
  ∀ (word : BusWord) (s : State),
    if s.busy = true then busWrite exec .w32 cmdOffset word s = .next (s.raise .busy)
    else match decode word with
      | .error _ => busWrite exec .w32 cmdOffset word s = .next (s.raise .illegalCommand)
      | .ok i =>
        if ∃ len, ((∃ rnd, i = .setup len rnd) ∨ i = .encrypt len ∨ i = .decrypt len) ∧ len.toNat ≠ 2 * N then
          busWrite exec .w32 cmdOffset word s = .next (s.raise .invalidLength)
        else if (∃ len, i = .encrypt len ∨ i = .decrypt len) ∧ s.keyValid = false then
          busWrite exec .w32 cmdOffset word s = .next (s.raise .noKey)
        else ∃ t : State, busWrite exec .w32 cmdOffset word s = .next t ∧ t.err = s.err ∧ t.errovf = s.errovf ∧
          if ((∃ len rnd, i = .setup len rnd) ∧ ∃ w : Fin N, s.keyinWritten[w] = false) ∨
              ((∃ len, i = .encrypt len ∨ i = .decrypt len) ∧ ∃ w : Fin N, s.dataWritten[w] = false) then
            t.fault = some (s.fault.getD .unwrittenRead)
          else t.fault = s.fault

/-- R117: a CMD or DATA write that touches ERR or ERROVF is a dropped one: it is the recording of one Error, and
everything but ERR and ERROVF is as before, DATA among it. -/
def Obligations.DroppedWritesChangeOnlyErr : Prop :=
  ∀ (off : Byte) (v : BusWord) (s t : State), (off = cmdOffset ∨ ∃ w : Fin N, off = dataOffset w) →
    busWrite exec .w32 off v s = .next t → (t.err ≠ s.err ∨ t.errovf ≠ s.errovf) →
    (∃ e : Error, t = s.raise e) ∧ t = { s with err := t.err, errovf := t.errovf }

/-- The frame of every command, accepted or dropped (R111 to R115, R212): no command writes KEYIN, a mark, the host's
program and variables, the schedule, or a written DATA word; and unless a SETUP consumes a KEYIN word, or an ENCRYPT or
DECRYPT a DATA word, that was never written (log entry 1), none writes DATA, the fault field or the count of draws. Those
that do record UnwrittenRead, SETUP leaving DATA alone too. -/
def Obligations.CommandsLeaveTheBuffersAlone : Prop :=
  ∀ (i : Instr) (s t : State), exec i s = .next t →
    t.keyin = s.keyin ∧ t.keyinWritten = s.keyinWritten ∧ t.dataWritten = s.dataWritten ∧ t.program = s.program ∧
      t.vars = s.vars ∧ t.schedule = s.schedule ∧
      (∀ w : Fin N, s.dataWritten[w] = true → t.data[w] = s.data[w]) ∧
      ((t.data = s.data ∧ t.fault = s.fault ∧ t.draws = s.draws) ∨
        (s.busy = false ∧ t.fault = some (s.fault.getD .unwrittenRead) ∧
          (((∃ len rnd, i = .setup len rnd) ∧ (∃ w : Fin N, s.keyinWritten[w] = false) ∧ t.data = s.data) ∨
            ((∃ len, i = .encrypt len ∨ i = .decrypt len) ∧ ∃ w : Fin N, s.dataWritten[w] = false))))

/-! ### Errors, STATUS and the register window (spec/60_exceptions.md, spec/10_state.md, spec/20_memory.md) -/

/-- R212, with the codes of R211, on the STATUS value the host reads: ERR takes the code where it was 0 and otherwise
keeps its value while ERROVF is set; every other bit and everything else keeps its value. -/
def Obligations.RaiseRecordsTheFirstCode : Prop :=
  ∀ (s : State) (e : Error),
    (s.raise e).statusValue.extractLsb' 8 4 =
        (if s.statusValue.extractLsb' 8 4 = 0#4 then
          (match e with | .invalidLength => 1#4 | .illegalCommand => 2#4 | .noKey => 3#4 | .busy => 4#4)
        else s.statusValue.extractLsb' 8 4) ∧
      (s.raise e).statusValue.getLsbD 4 =
        (s.statusValue.getLsbD 4 || s.statusValue.extractLsb' 8 4 != 0#4) ∧
      (∀ i : Nat, i ≠ 4 → (i < 8 ∨ 12 ≤ i) → (s.raise e).statusValue.getLsbD i = s.statusValue.getLsbD i) ∧
      s.raise e = { s with err := (s.raise e).err, errovf := (s.raise e).errovf }

/-- The layout of the STATUS value (R28, R29, R211): bits 0 to 4 are BUSY, which is 1 exactly when seq is not Idle,
KEY_VALID, DONE, WARN and ERROVF; bits 11:8 are the code of ERR; every other bit reads 0. -/
def Obligations.StatusLayout : Prop :=
  ∀ s : State,
    (s.statusValue.getLsbD 0 = true ↔ s.seq ≠ .idle) ∧ s.statusValue.getLsbD 1 = s.keyValid ∧
      s.statusValue.getLsbD 2 = s.done ∧ s.statusValue.getLsbD 3 = s.warn ∧
      s.statusValue.getLsbD 4 = s.errovf ∧
      s.statusValue.extractLsb' 8 4 =
        (match s.err with
          | none => 0#4 | some .invalidLength => 1#4 | some .illegalCommand => 2#4
          | some .noKey => 3#4 | some .busy => 4#4) ∧
      ∀ i : Nat, (5 ≤ i ∧ i < 8) ∨ 12 ≤ i → s.statusValue.getLsbD i = false

/-- R116: a write of `v` to STATUS, also while BUSY, clears DONE, WARN, ERROVF and ERR where bits 2, 3, 4 and 12 of `v`
are 1, raises no Error, and changes nothing else whatever the other bits are. -/
def Obligations.StatusWriteClearsFlags : Prop :=
  ∀ (v : BusWord) (s : State),
    busWrite exec .w32 0x04#8 v s = .next
      { s with
        done := if v.getLsbD 2 then false else s.done
        warn := if v.getLsbD 3 then false else s.warn
        errovf := if v.getLsbD 4 then false else s.errovf
        err := if v.getLsbD 12 then none else s.err }

/-- R26: under an admitted configuration CFG reads N, DEFAULT_ROUNDS, SAFE_MIN and SAFE_MAX in its four bytes, and a
write to it has no effect. -/
def Obligations.CfgReportsTheConfiguration : Prop :=
  ∀ (c : Configuration) (v : BusWord) (s : State), c.WellFormed →
    busRead c .w32 0x00#8 s =
        (some (BitVec.ofNat 32
          (N + 256 * c.defaultRounds + 65536 * c.safeMin + 16777216 * c.safeMax)), s) ∧
      busWrite exec .w32 0x00#8 v s = .next s

/-- R64: what a read at each mapped offset returns, and that no read changes the block. A DATA read while BUSY returns
some 16-bit value, and only the model's count of draws moves (the model's choice, log entry 3); a read of a KEYIN word, or of
a DATA word while idle, that was never written records the fault UnwrittenRead and returns some value (log entry 1). -/
def Obligations.BusReadReturns : Prop :=
  ∀ (c : Configuration) (s : State),
    busRead c .w32 0x00#8 s = (some (cfgValue c), s) ∧ busRead c .w32 0x04#8 s = (some s.statusValue, s) ∧
      busRead c .w32 0x08#8 s = (some 0#32, s) ∧ busRead c .w32 0x0C#8 s = (some (s.rounds.setWidth 32), s) ∧
      ∀ w : Fin N,
        (if s.keyinWritten[w] = true then
          busRead c .w32 (BitVec.ofNat 8 (0x40 + 4 * w.val)) s = (some ((s.keyin[w]).setWidth 32), s)
        else ∃ d : Word, busRead c .w32 (BitVec.ofNat 8 (0x40 + 4 * w.val)) s =
          (some (d.setWidth 32), { s with draws := s.draws + 1, fault := some (s.fault.getD .unwrittenRead) })) ∧
        (if s.busy = true then
          ∃ d : Word, busRead c .w32 (BitVec.ofNat 8 (0x80 + 4 * w.val)) s =
            (some (d.setWidth 32), { s with draws := s.draws + 1 })
        else if s.dataWritten[w] = true then
          busRead c .w32 (BitVec.ofNat 8 (0x80 + 4 * w.val)) s = (some ((s.data[w]).setWidth 32), s)
        else ∃ d : Word, busRead c .w32 (BitVec.ofNat 8 (0x80 + 4 * w.val)) s =
          (some (d.setWidth 32), { s with draws := s.draws + 1, fault := some (s.fault.getD .unwrittenRead) }))

/-- R65 and R66 for the registers that hold data: a KEYIN write at any time, and a DATA write on an idle block, sets one
word to bits 15:0 of the value and its mark, whatever bits 31:16 are, and changes nothing else; a DATA write while BUSY is
Error(Busy); a write to CFG or ROUNDS has no effect. -/
def Obligations.BusWriteSetsOneWord : Prop :=
  ∀ (v : BusWord) (s : State) (w : Fin N),
    busWrite exec .w32 (BitVec.ofNat 8 (0x40 + 4 * w.val)) v s = .next
        { s with keyin := s.keyin.set w (BitVec.ofNat 16 (v.toNat % 65536)),
                 keyinWritten := s.keyinWritten.set w true } ∧
      busWrite exec .w32 (BitVec.ofNat 8 (0x80 + 4 * w.val)) v s =
        (if s.busy = true then .next (s.raise .busy)
        else .next
          { s with data := s.data.set w (BitVec.ofNat 16 (v.toNat % 65536)),
                   dataWritten := s.dataWritten.set w true }) ∧
      busWrite exec .w32 0x00#8 v s = .next s ∧ busWrite exec .w32 0x0C#8 v s = .next s

/-- R66: a KEYIN or DATA write ignores bits 31:16, and a read returns 0 in them, also while BUSY. And as the host sees it:
what a KEYIN write (at any time) or a DATA write (on an idle block) put in bits 15:0 is read back, and every other word of
the two files keeps its contents and its mark. -/
def Obligations.WrittenWordReadsBack : Prop :=
  ∀ (c : Configuration) (v : BusWord) (s : State) (w u : Fin N),
    (∀ off : Byte, off = keyinOffset w ∨ off = dataOffset w →
      busWrite exec .w32 off v s = busWrite exec .w32 off (v &&& 0x0000FFFF#32) s ∧
        ∀ (x : BusWord) (t : State), busRead c .w32 off s = (some x, t) → x.extractLsb' 16 16 = 0#16) ∧
    (∀ t : State, busWrite exec .w32 (keyinOffset w) v s = .next t →
      busRead c .w32 (keyinOffset w) t = (some (v &&& 0x0000FFFF#32), t) ∧
        (u ≠ w → t.keyin[u] = s.keyin[u] ∧ t.keyinWritten[u] = s.keyinWritten[u]) ∧ t.data = s.data ∧
        t.dataWritten = s.dataWritten) ∧
      (s.busy = false → ∀ t : State, busWrite exec .w32 (dataOffset w) v s = .next t →
        busRead c .w32 (dataOffset w) t = (some (v &&& 0x0000FFFF#32), t) ∧
          (u ≠ w → t.data[u] = s.data[u] ∧ t.dataWritten[u] = s.dataWritten[u]) ∧ t.keyin = s.keyin ∧
          t.keyinWritten = s.keyinWritten)

/-- R62, R63 and the order of R215: an access of another width is BusFault(width), a 32-bit access at an offset that is no
multiple of 4 is BusFault(misaligned), one at an unmapped offset of R61 is BusFault(unmapped): the fault is recorded where
none was recorded before (R37, R221), a read gives no value, and nothing else changes. Every other access gives no
BusFault, and a read of it a value. -/
def Obligations.BusFaultsInOrder : Prop :=
  ∀ (c : Configuration) (width : Width) (off : Byte) (v : BusWord) (s : State),
    let faults (k : BusFaultKind) : Prop :=
      busRead c width off s = (none, { s with fault := some (s.fault.getD (.busFault k)) }) ∧
        busWrite exec width off v s = .next { s with fault := some (s.fault.getD (.busFault k)) }
    if width ≠ .w32 then faults .width
    else if off.toNat % 4 ≠ 0 then faults .misaligned
    else if (0x10 ≤ off.toNat ∧ off.toNat < 0x40) ∨ (0x40 + 4 * N ≤ off.toNat ∧ off.toNat < 0x80) ∨
        0x80 + 4 * N ≤ off.toNat then faults .unmapped
    else
      (∃ x : BusWord, (busRead c width off s).1 = some x) ∧
        ∀ k : BusFaultKind, s.fault ≠ some (.busFault k) →
          (busRead c width off s).2.fault ≠ some (.busFault k) ∧
            ∀ t : State, busWrite exec width off v s = .next t → t.fault ≠ some (.busFault k)

/-- The map of R61: an aligned offset names a register exactly when it is that register's own offset, so no two registers
share one. -/
def Obligations.RegisterMapExact : Prop :=
  ∀ (off : Byte) (r : Reg), off.toNat % 4 = 0 → (regAt off = some r ↔ off = r.offset)

/-- The window of R60 and R9: the address of an offset is BASE plus the offset, and an address is in the window exactly
when it is the address of an offset. -/
def Obligations.WindowIsBasePlusOffset : Prop :=
  ∀ (c : Configuration) (addr : Nat) (off : Byte),
    windowOffset c addr = some off ↔ addr = c.base + off.toNat

/-- The host cannot read KEY (R23, R224): changing KEY changes no value any access returns. -/
def Obligations.ReadsDoNotDependOnKey : Prop :=
  ∀ (c : Configuration) (width : Width) (off : Byte) (s : State) (k : Block),
    busRead c width off { s with key := k } =
      ((busRead c width off s).1, { (busRead c width off s).2 with key := k })

/-! ### The layers (spec/42_round_layers.md) -/

/-- R150: AddKey XORs word `w` of the key into word `w` and no other, is the identity for the zero key, and is its own
inverse. -/
def Obligations.AddKeyIsWordwiseXor : Prop :=
  ∀ (key S : Block),
    (∀ w : Fin N, (addKey key S)[w] = S[w] ^^^ key[w]) ∧ addKey (Vector.replicate N 0) S = S ∧
      addKey key (addKey key S) = S

/-- R151: AddRC XORs LBox1[k] into word 0, changes no other word, is its own inverse, is the identity where LBox1[k] is 0,
and commutes neither with Sub nor with Lin in general. -/
def Obligations.AddRCTouchesWordZero : Prop :=
  (∀ (c : Configuration) (k : Byte) (S : Block),
    (addRC c k.toNat S)[0] = S[0] ^^^ c.lbox1 k ∧
      (∀ w : Fin N, w.val ≠ 0 → (addRC c k.toNat S)[w] = S[w]) ∧
      addRC c k.toNat (addRC c k.toNat S) = S ∧ (c.lbox1 k = 0 → addRC c k.toNat S = S)) ∧
    (∃ (c : Configuration) (k : Byte) (S : Block), k ≠ 0 ∧
      addRC c k.toNat (sub c S) ≠ sub c (addRC c k.toNat S)) ∧
    ∃ (c : Configuration) (k : Byte) (S : Block), k ≠ 0 ∧
      addRC c k.toNat (lin c S) ≠ lin c (addRC c k.toNat S)

/-- R153: column `j` is the sum over the words of bit `j` of word `w` times 2^w. -/
def Obligations.ColumnIsTheSumOfItsBits : Prop :=
  ∀ (S : Block) (j : Fin 16),
    (column S j).toNat = ((List.finRange N).map fun w => if (S[w]).getLsbD j then 2 ^ w.val else 0).sum

/-- R155 and R158: Sub applies SBoxCol, and InvSub applies SBoxColInv, to each of the 16 columns by itself. -/
def Obligations.SubstitutionActsByColumn : Prop :=
  ∀ (c : Configuration) (S : Block) (j : Fin 16),
    column (sub c S) j = c.sboxCol (column S j) ∧ column (invSub c S) j = c.sboxColInv (column S j)

/-- R157 and R158: under an admitted configuration Sub and InvSub are inverses of one another, on both sides. -/
def Obligations.SubstitutionInverse : Prop :=
  ∀ (c : Configuration) (S : Block), c.WellFormed → invSub c (sub c S) = S ∧ sub c (invSub c S) = S

/-- R160 and R161: Lin replaces each word by itself by LBox1 of its high byte XOR LBox2 of its low byte; and R164 in the
same way with the inverse tables. -/
def Obligations.DiffusionActsByWord : Prop :=
  ∀ (c : Configuration) (S : Block) (w : Fin N),
    (lin c S)[w] = c.lbox1 (BitVec.ofNat 8 ((S[w]).toNat / 256)) ^^^ c.lbox2 (BitVec.ofNat 8 ((S[w]).toNat % 256)) ∧
      (invLin c S)[w] =
        c.ilbox1 (BitVec.ofNat 8 ((S[w]).toNat / 256)) ^^^ c.ilbox2 (BitVec.ofNat 8 ((S[w]).toNat % 256))

/-- R163 and R164: under an admitted configuration Lin and InvLin are inverses of one another, on both sides. -/
def Obligations.DiffusionInverse : Prop :=
  ∀ (c : Configuration) (S : Block), c.WellFormed → invLin c (lin c S) = S ∧ lin c (invLin c S) = S

/-- R162: if both tables are GF(2)-linear in their index, Lin is linear on words, both tables are 0 at 0, and Lin of a word
is the XOR of Lin of its two halves. -/
def Obligations.LinearTablesGiveLinearDiffusion : Prop :=
  ∀ c : Configuration, (∀ a b : Byte, c.lbox1 (a ^^^ b) = c.lbox1 a ^^^ c.lbox1 b) →
    (∀ a b : Byte, c.lbox2 (a ^^^ b) = c.lbox2 a ^^^ c.lbox2 b) →
    (∀ x y : Word, linWord c (x ^^^ y) = linWord c x ^^^ linWord c y) ∧ c.lbox1 0 = 0 ∧ c.lbox2 0 = 0 ∧
      ∀ x : Word, linWord c x = linWord c (x &&& 0xFF00#16) ^^^ linWord c (x &&& 0x00FF#16)

/-! ### Encryption, decryption and the engine (spec/43_encrypt_decrypt.md, spec/41_key_schedule.md) -/

/-- R182, the inverse theorem: for every admitted configuration, key, round count and block, decryption inverts encryption
and encryption inverts decryption. -/
def Obligations.DecryptionInvertsEncryption : Prop :=
  ∀ (c : Configuration) (key : Block) (R : Nat) (S : Block), c.WellFormed → 1 ≤ R → R ≤ 255 →
    decryptBlock c key R (encryptBlock c key R S) = S ∧ encryptBlock c key R (decryptBlock c key R S) = S

/-- R191, R192, R142, R183 and R184: from Run(Enc, 0, EK0) the engine's 4R + 1 steps apply AddKey and then, for each round i,
AddRC with index i + 1, Sub, Lin and AddKey; from Run(Dec, 0, DKEY) they apply, for each round i, AddKey, InvLin, InvSub and
AddRC with index R - i, and then AddKey; and in each direction AddKey is applied exactly R + 1 times. -/
def Obligations.EngineAppliesTheLayersInOrder : Prop :=
  ∀ (c : Configuration) (s : State), 1 ≤ s.rounds.toNat →
    (s.seq = .enc 0 .ek0 →
      layerTrace c (4 * s.rounds.toNat + 1) s =
        Layer.addKey :: (List.range s.rounds.toNat).flatMap fun i => [.addRC (i + 1), .sub, .lin, .addKey]) ∧
      (s.seq = .dec 0 .dkey →
        layerTrace c (4 * s.rounds.toNat + 1) s =
          ((List.range s.rounds.toNat).flatMap fun i =>
            [Layer.addKey, .invLin, .invSub, .addRC (s.rounds.toNat - i)]) ++ [.addKey]) ∧
      (s.seq = .enc 0 .ek0 ∨ s.seq = .dec 0 .dkey →
        (layerTrace c (4 * s.rounds.toNat + 1) s).count .addKey = s.rounds.toNat + 1)

/-- R146 and R147: the constant indices of an encryption are 1, 2, ..., R and those of a decryption R, R-1, ..., 1; each is
in 1..255, so LBox1[0] is never a round constant (R145). -/
def Obligations.ConstantIndexSequences : Prop :=
  ∀ (c : Configuration) (s : State), 1 ≤ s.rounds.toNat →
    (s.seq = .enc 0 .ek0 →
      indexTrace c (4 * s.rounds.toNat + 1) s = (List.range s.rounds.toNat).map (· + 1)) ∧
      (s.seq = .dec 0 .dkey →
        indexTrace c (4 * s.rounds.toNat + 1) s = ((List.range s.rounds.toNat).map (· + 1)).reverse) ∧
      (s.seq = .enc 0 .ek0 ∨ s.seq = .dec 0 .dkey →
        ∀ k ∈ indexTrace c (4 * s.rounds.toNat + 1) s, 1 ≤ k ∧ k ≤ 255)

/-- R193 to R195 for encryption: from Run(Enc, 0, EK0) the block is busy until exactly 4R + 1 engine steps have run; then
DATA is Encrypt_{K,R} of what it was, every mark of it is set (R21), seq is Idle, DONE is set, and nothing else has
changed. -/
def Obligations.EngineComputesEncryption : Prop :=
  ∀ (c : Configuration) (s : State), s.seq = .enc 0 .ek0 → 1 ≤ s.rounds.toNat →
    (∀ n : Nat, n < 4 * s.rounds.toNat + 1 → (engineSteps c n s).busy = true) ∧
      engineSteps c (4 * s.rounds.toNat + 1) s =
        { s with data := encryptBlock c s.key s.rounds.toNat s.data, dataWritten := Vector.replicate N true,
                 seq := .idle, done := true }

/-- R193 to R195 for decryption, with every mark of DATA set (R21). -/
def Obligations.EngineComputesDecryption : Prop :=
  ∀ (c : Configuration) (s : State), s.seq = .dec 0 .dkey → 1 ≤ s.rounds.toNat →
    (∀ n : Nat, n < 4 * s.rounds.toNat + 1 → (engineSteps c n s).busy = true) ∧
      engineSteps c (4 * s.rounds.toNat + 1) s =
        { s with data := decryptBlock c s.key s.rounds.toNat s.data, dataWritten := Vector.replicate N true,
                 seq := .idle, done := true }

/-- R196 and R190: an engine step writes only DATA and its marks, which it sets (R21), and seq, and DONE at completion; what
it writes depends only on seq, DATA, KEY and ROUNDS (and DONE for DONE); an idle engine has no step, and a busy one always
has one, which moves seq: on the engine's turn the step is it, whatever fault is recorded (R37, R197). (Whose turn it is is
the model's choice, log entry 4.) -/
def Obligations.EngineReadsAndWrites : Prop :=
  ∀ (c : Configuration) (s u : State),
    engineStep c s = { s with data := (engineStep c s).data, dataWritten := (engineStep c s).dataWritten,
                              seq := (engineStep c s).seq, done := (engineStep c s).done } ∧
      ((engineStep c s).done ≠ s.done → (engineStep c s).done = true ∧ s.busy = true ∧
        (engineStep c s).busy = false) ∧
      (s.busy = false → engineStep c s = s) ∧
      (s.busy = true → (engineStep c s).dataWritten = Vector.replicate N true ∧ (engineStep c s).seq ≠ s.seq) ∧
      (s.seq = u.seq → s.data = u.data → s.key = u.key → s.rounds = u.rounds →
        (engineStep c s).data = (engineStep c u).data ∧ (engineStep c s).seq = (engineStep c u).seq) ∧
      (turnOf s = some .engine →
        step s = .next { engineStep Config.chip.cfg s with schedule := s.schedule.tail })

/-- R113, R114 and R194 on the chip: an accepted ENCRYPT or DECRYPT, run to completion by the engine, leaves
Encrypt_{K,R} or Decrypt_{K,R} of DATA at acceptance in DATA, BUSY 0 and DONE 1, and with every DATA word written changes
nothing else. DATA at acceptance has the written words as they were; with a word that was never written, the fault field and
the count of draws change too, as OperationsStart says (log entry 1), and the marks, which the engine sets (R21). -/
def Obligations.CommandsTransformTheBlock : Prop :=
  ∀ (len : Byte) (s : State) (i : Instr) (transform : Block → Block), s.busy = false → len.toNat = 2 * N →
    s.keyValid = true → 1 ≤ s.rounds.toNat →
    (i = .encrypt len ∧ transform = encryptBlock Config.chip.cfg s.key s.rounds.toNat) ∨
      (i = .decrypt len ∧ transform = decryptBlock Config.chip.cfg s.key s.rounds.toNat) →
    ∃ t : State, exec i s = .next t ∧
      (∀ w : Fin N, s.dataWritten[w] = true → t.data[w] = s.data[w]) ∧
      engineSteps Config.chip.cfg (4 * s.rounds.toNat + 1) t =
        { s with data := transform t.data, dataWritten := Vector.replicate N true, done := true, fault := t.fault,
                 draws := t.draws } ∧
      ((∀ w : Fin N, s.dataWritten[w] = true) →
        engineSteps Config.chip.cfg (4 * s.rounds.toNat + 1) t =
          { s with data := transform s.data, done := true })

/-- The involution property on the machine (R182, R194; section L1.1 of spec/95_test_vectors.md): ENCRYPT run to
completion, then DECRYPT run to completion, restores the DATA that the ENCRYPT started from, with every mark of it set (R21);
with every DATA word written, that is the DATA before it, and nothing but DONE is changed. With a word that was never
written, that the ENCRYPT goes on, and starts from some value in that word, is the model's choice (log entry 1). -/
def Obligations.DecryptUndoesEncryptOnTheChip : Prop :=
  ∀ (len : Byte) (s : State), s.busy = false → len.toNat = 2 * N → s.keyValid = true → 1 ≤ s.rounds.toNat →
    ∃ t u : State, exec (.encrypt len) s = .next t ∧
      exec (.decrypt len) (engineSteps Config.chip.cfg (4 * s.rounds.toNat + 1) t) = .next u ∧
      engineSteps Config.chip.cfg (4 * s.rounds.toNat + 1) u =
        { t with dataWritten := Vector.replicate N true, seq := .idle, done := true } ∧
      ((∀ w : Fin N, s.dataWritten[w] = true) →
        engineSteps Config.chip.cfg (4 * s.rounds.toNat + 1) u = { s with done := true })

/-- R118: the result of an accepted ENCRYPT or DECRYPT depends only on DATA at acceptance, KEY and ROUNDS: whatever else two
states differ in, equal inputs give equal results. DATA at acceptance is DATA where every word of it is written, and
otherwise what the operation starts with (log entry 1). -/
def Obligations.EqualInputsGiveEqualResults : Prop :=
  ∀ (i : Instr) (len : Byte) (s u s' u' : State), i = .encrypt len ∨ i = .decrypt len →
    s.busy = false → u.busy = false → s.keyValid = true → u.keyValid = true → len.toNat = 2 * N →
    exec i s = .next s' → exec i u = .next u' →
    (s.data = u.data ∧ ∀ w : Fin N, s.dataWritten[w] = true ∧ u.dataWritten[w] = true) ∨ s'.data = u'.data →
    s.key = u.key → s.rounds = u.rounds →
    ∀ n : Nat, (engineSteps Config.chip.cfg n s').data = (engineSteps Config.chip.cfg n u').data ∧
      (engineSteps Config.chip.cfg n s').seq = (engineSteps Config.chip.cfg n u').seq

/-- R22, R68 and R246: KEYIN never reaches a running operation: the engine does the same whatever KEYIN holds. -/
def Obligations.KeyinDoesNotReachTheEngine : Prop :=
  ∀ (c : Configuration) (n : Nat) (s : State) (k : Block) (m : Marks),
    engineSteps c n { s with keyin := k, keyinWritten := m } =
      { engineSteps c n s with keyin := k, keyinWritten := m }

/-! ### Byte order and host programs (spec/20_memory.md R70 to R72, spec/30_encoding.md R100) -/

/-- R70: word `w` is byte 2w plus 256 times byte 2w + 1, and the bytes of a block give its words back. -/
def Obligations.WordsAreLittleEndian : Prop :=
  ∀ (b : Vector Byte blockBytes) (S : Block),
    (∀ (w : Fin N) (h : 2 * w.val < blockBytes) (h' : 2 * w.val + 1 < blockBytes),
      ((packBytes b)[w]).toNat = (b[2 * w.val]).toNat + 256 * (b[2 * w.val + 1]).toNat) ∧
      unpackBytes (packBytes b) = b ∧ packBytes (unpackBytes S) = S

/-- R71, R72 and R100: on an idle block with no schedule left, N steps of LOADBLOCK, or of LOADKEY, put the words of the
bytes into DATA, or KEYIN, set every mark of that file, and change nothing else; and N steps of STOREBLOCK put word `w` of
DATA, zero-extended, into host variable `first + w`, keep every other variable, and with every DATA word written change nothing
else; a word that was never written gives some value and records the fault UnwrittenRead (log entry 1). (That the host moves
when no schedule is left is the model's choice, log entry 4.) -/
def Obligations.LoadingABlockAndAKey : Prop :=
  ∀ (b : Vector Byte blockBytes) (s : State) (rest : List Stmt), s.busy = false → s.schedule = [] →
    (s.program = loadBlock b ++ rest →
      Sys2Proof.core.run N s = .next
        { s with data := packBytes b, dataWritten := Vector.replicate N true, program := rest }) ∧
      (s.program = loadKey b ++ rest →
        Sys2Proof.core.run N s = .next
          { s with keyin := packBytes b, keyinWritten := Vector.replicate N true, program := rest }) ∧
      ∀ first : Nat, s.program = storeBlock first ++ rest →
        ∃ t : State, Sys2Proof.core.run N s = .next t ∧
          t = { s with program := rest, vars := t.vars, fault := t.fault, draws := t.draws } ∧
          (∀ w : Fin N, ∃ d : Word, t.var (first + w.val) = some (d.setWidth 32) ∧
            (s.dataWritten[w] = true → d = s.data[w])) ∧
          (∀ m : Nat, m < first ∨ first + N ≤ m → t.var m = s.var m) ∧
          if ∀ w : Fin N, s.dataWritten[w] = true then t.fault = s.fault ∧ t.draws = s.draws
          else t.fault = some (s.fault.getD .unwrittenRead)

/-- R75 and R100. On the host's turn a POLL reads STATUS into its variable, keeps every other variable and changes nothing
else but its turn; it stays while BUSY is 1 and ends when BUSY is 0. And under every schedule without a reset, from the start
of an encryption or a decryption, the POLL stays until the operation has completed, and then ends, with BUSY read as 0 and
the operation's result in DATA, after at most the steps of the schedule and 4R + 2 more. (The schedule, and the order after
it, are the model's choice, log entry 4; the variable of a POLL is log entry 15; the program is log entry 5.) -/
def Obligations.PollWaitsForTheResult : Prop :=
  (∀ (s : State) (v : Nat) (rest : List Stmt), turnOf s = some .host →
    s.program = .poll v :: rest →
    ∃ t : State, step s = .next t ∧ t.var v = some s.statusValue ∧ (∀ m : Nat, m ≠ v → t.var m = s.var m) ∧
      t = { s with program := if s.busy = true then s.program else rest, vars := t.vars,
                   schedule := s.schedule.tail }) ∧
    ∀ (s : State) (v : Nat) (rest : List Stmt) (result : Block), .reset ∉ s.schedule →
      1 ≤ s.rounds.toNat → s.program = .poll v :: rest →
      (s.seq = .enc 0 .ek0 ∧ result = encryptBlock Config.chip.cfg s.key s.rounds.toNat s.data) ∨
        (s.seq = .dec 0 .dkey ∧ result = decryptBlock Config.chip.cfg s.key s.rounds.toNat s.data) →
      ∃ (n : Nat) (t : State), n ≤ s.schedule.length + (4 * s.rounds.toNat + 2) ∧
        Sys2Proof.core.run n s = .next t ∧
        t = { s with data := result, dataWritten := Vector.replicate N true, seq := .idle, done := true,
                     program := rest, vars := t.vars, schedule := t.schedule } ∧
        (∃ x : BusWord, t.var v = some x ∧ x.getLsbD 0 = false) ∧
        ∀ m : Nat, m < n → ∃ u : State, Sys2Proof.core.run m s = .next u ∧ u.program = s.program

/-! ### The step and the invariant -/

/-- R110 and R77: when the host's next statement is the CMD write of a word that decodes to `i`, and it is the host's turn,
step is exec of `i` on the state with that statement and that turn used; in particular after withFetchWord. (The program and the
turn are the model's choice, log entries 4 and 5.) -/
def Obligations.StepRunsTheDecodedCommand : Prop :=
  (∀ (s : State) (word : BusWord) (i : Instr) (rest : List Stmt), turnOf s = some .host →
      s.program = .write .w32 cmdOffset word :: rest → decode word = .ok i →
      step s = exec i { s with program := rest, schedule := s.schedule.tail }) ∧
    ∀ (s : State) (word : BusWord) (i : Instr), decode word = .ok i →
      step (s.withFetchWord 32 word.toNat) = exec i s

/-- R39, R240 and R241: a reset event, also while an operation runs, leaves every piece of the block's state at its reset
value and leaves the fault field alone; State.reset has the same values, and no fault recorded. (That a reset is a turn of the
schedule, which it uses up, is the model's choice, log entry 4; that it keeps the host's program and variables is the
model's reading, log entry 10.) -/
def Obligations.ResetLeavesTheResetState : Prop :=
  ∀ (s : State) (rest : List Turn), s.schedule = .reset :: rest →
    ∃ t : State, step s = .next t ∧
      (∀ u ∈ [t, State.reset],
        (∀ w : Fin N, u.dataWritten[w] = false ∧ u.keyinWritten[w] = false ∧ u.key[w] = 0) ∧ u.rounds = 0 ∧
          u.busy = false ∧ u.keyValid = false ∧ u.done = false ∧ u.warn = false ∧ u.errovf = false ∧
          u.err = none ∧ u.seq = .idle ∧ u.statusValue = 0#32) ∧
      t.fault = s.fault ∧ State.reset.fault = none ∧ t.program = s.program ∧ t.vars = s.vars ∧ t.schedule = rest

/-- Reset is a legal state (R39). -/
def Obligations.ResetIsLegal : Prop := Legal State.reset

/-- The invariant of the machine: every step from a legal state, whoever takes it, leads to a legal one. So ROUNDS is in
1..255 exactly while an instance exists (R27), KEY is 0 while none does, the sequencer stays at a position the tables of
R191 and R192 visit, and an operation runs only with an instance and, after its first engine step, a written block. -/
def Obligations.StepKeepsLegal : Prop :=
  ∀ s t : State, Legal s → step s = .next t → Legal t

/-- R29: BUSY is set only by an accepted ENCRYPT or DECRYPT, and cleared only by the engine's last step, which sets DONE,
or by reset. -/
def Obligations.BusyChangesOnlyBy : Prop :=
  ∀ s t : State, step s = .next t →
    (s.busy = false → t.busy = true → ∃ len, hostIssues s (.encrypt len) ∨ hostIssues s (.decrypt len)) ∧
      (s.busy = true → t.busy = false →
        turnOf s = some .reset ∨ (turnOf s = some .engine ∧ t.done = true))

/-- R149: KEY and ROUNDS change only by a SETUP or RELEASE on an idle block, or by reset. -/
def Obligations.InstanceChangesOnlyBy : Prop :=
  ∀ s t : State, step s = .next t → (t.key ≠ s.key ∨ t.rounds ≠ s.rounds ∨ t.keyValid ≠ s.keyValid) →
    turnOf s = some .reset ∨
      (s.busy = false ∧ ((∃ len rnd, hostIssues s (.setup len rnd)) ∨ hostIssues s .release))

/-- R32, under every configuration: WARN is set only by a SETUP whose explicit round count is outside the safe range, and
cleared only by a STATUS write of 1 to bit 3, or reset. (Over configurations, because the chip's safe range is open: on a
range of 1..255 no SETUP warns.) -/
def Obligations.WarnChangesOnlyBy : Prop :=
  ∀ (c : Configuration) (s t : State), stepUnder c s = .next t →
    (s.warn = false → t.warn = true → ∃ len rnd, hostIssues s (.setup len rnd) ∧ rnd ≠ 0 ∧
      (rnd.toNat < c.safeMin ∨ c.safeMax < rnd.toNat)) ∧
      (s.warn = true → t.warn = false →
        turnOf s = some .reset ∨ ∃ v, hostWrites s statusOffset v ∧ v.getLsbD 3 = true)

/-- R31: DONE is set only when a command completes (NOP, SETUP and RELEASE in their access, an operation at the engine's
last step), and cleared only by an accepted ENCRYPT or DECRYPT, a STATUS write of 1 to bit 2, or reset. -/
def Obligations.DoneChangesOnlyBy : Prop :=
  ∀ s t : State, step s = .next t →
    (s.done = false → t.done = true →
      (turnOf s = some .engine ∧ s.busy = true ∧ t.busy = false) ∨
        (s.busy = false ∧ (hostIssues s .nop ∨ (∃ len rnd, hostIssues s (.setup len rnd)) ∨ hostIssues s .release))) ∧
      (s.done = true → t.done = false →
        turnOf s = some .reset ∨ (∃ v, hostWrites s statusOffset v ∧ v.getLsbD 2 = true) ∨
          (t.busy = true ∧ ∃ len, hostIssues s (.encrypt len) ∨ hostIssues s (.decrypt len)))

/-- R67(a), R120 and R197: while an operation runs, no move of the host changes DATA, its marks, KEY, ROUNDS, KEY_VALID or
the sequencer position. -/
def Obligations.HostCannotDisturbAnOperation : Prop :=
  ∀ s t : State, s.busy = true → turnOf s = some .host → step s = .next t →
    t.data = s.data ∧ t.dataWritten = s.dataWritten ∧ t.key = s.key ∧ t.rounds = s.rounds ∧
      t.keyValid = s.keyValid ∧ t.seq = s.seq

/-- R197 and R250: from every legal state in which an operation runs, once the schedule leaves the choice to fairness, the
operation completes within 4R + 1 steps and sets DONE, whatever the host still has to do. (The order after the schedule is the
model's choice, log entry 4.) -/
def Obligations.EveryOperationCompletes : Prop :=
  ∀ s : State, Legal s → s.schedule = [] → s.busy = true →
    ∃ (n : Nat) (t : State), n ≤ 4 * s.rounds.toNat + 1 ∧ Sys2Proof.core.run n s = .next t ∧ t.busy = false ∧
      t.done = true ∧ t.program = s.program

/-- R220: what a step can record as a fault, where none is recorded: on the host's turn, and not otherwise, the BusFault of
the access the host makes, exactly when the bus checks fail it; or UnwrittenRead, from a read of a KEYIN word or (on an idle
block) a DATA word that was never written, or from a SETUP, ENCRYPT or DECRYPT on an idle block that consumes one. (That
the machine goes on is the model's choice, log entries 1 and 8.) -/
def Obligations.StepFaultsOnlyAs : Prop :=
  ∀ (s t : State), step s = .next t →
    (s.fault = none → ∀ k : BusFaultKind, t.fault = some (.busFault k) ↔
      turnOf s = some .host ∧ ∃ width off rest,
        ((∃ v, s.program = .write width off v :: rest) ∨ (∃ n, s.program = .read width off n :: rest)) ∧
          busCheck width off = .error k) ∧
      (t.fault ≠ s.fault → turnOf s = some .host ∧ s.fault = none ∧
        ((∃ k : BusFaultKind, t.fault = some (.busFault k)) ∨
          (t.fault = some .unwrittenRead ∧
            ((∃ (w : Fin N) (n : Nat) (rest : List Stmt),
                s.program = .read .w32 (keyinOffset w) n :: rest ∧ s.keyinWritten[w] = false) ∨
              (∃ (w : Fin N) (n : Nat) (rest : List Stmt), s.busy = false ∧
                s.program = .read .w32 (dataOffset w) n :: rest ∧ s.dataWritten[w] = false) ∨
              (s.busy = false ∧ (∃ len rnd, hostIssues s (.setup len rnd)) ∧
                ∃ w : Fin N, s.keyinWritten[w] = false) ∨
              (s.busy = false ∧ (∃ len, hostIssues s (.encrypt len) ∨ hostIssues s (.decrypt len)) ∧
                ∃ w : Fin N, s.dataWritten[w] = false)))))

/-- R221: a fault, once recorded, is kept for the rest of the run, whatever is scheduled, reset among it. (That the run has a
rest, that is, goes on after a fault, is the model's choice, log entries 1 and 8.) -/
def Obligations.FaultIsNeverCleared : Prop :=
  (∀ (s : State) (f : FaultMark) (n : Nat), s.fault = some f →
      ∃ t : State, Sys2Proof.core.run n s = .next t ∧ t.fault = some f) ∧
    ∀ s : State, s.resetBlock.fault = s.fault

/-- No run of the chip is stopped or refused: every command has its meaning, every access its outcome, the engine its step
while it is busy (R190, R197), and the chip's configuration is admitted (R222). (That a run goes on after a fault is the
model's choice, log entries 1 and 8.) -/
def Obligations.EveryRunGoesOn : Prop :=
  ∀ (n : Nat) (s : State), ∃ t : State, Sys2Proof.core.run n s = .next t

/-- R222: a configuration with a round parameter outside 1..255 or out of order, or that fails the law of R157 or R163, is
refused at every state; the chip's configuration is not, and under it the model is the chip. -/
def Obligations.IllFormedConfigurationsAreRefused : Prop :=
  (∀ (c : Configuration) (s : State),
      (c.defaultRounds = 0 ∨ 255 < c.defaultRounds ∨ c.safeMin = 0 ∨ 255 < c.safeMin ∨ c.safeMax = 0 ∨
        255 < c.safeMax ∨ c.defaultRounds < c.safeMin ∨ c.safeMax < c.defaultRounds ∨
        (∃ x : Column, c.sboxColInv (c.sboxCol x) ≠ x) ∨ (∃ x : Word, invLinWord c (linWord c x) ≠ x)) →
      stepUnder c s = .refused .illFormedConfiguration) ∧
    ∀ s : State, stepUnder Config.chip.cfg s = step s

/-- R252 and R240: when nobody has a move, the state stays as it is, and without a fault the run has ended. The observation
of an ended run is what R64 reads of CFG, STATUS, ROUNDS and every KEYIN and DATA word, none exactly for a word whose read
records UnwrittenRead, together with KEY; there is none while an operation runs, while the host has statements, or with a
fault. (That nobody has a move exactly when the schedule is used up, the program has ended and the engine is idle is the
model's choice, log entry 4, so an ended run with a reset left in its schedule does not stay; the program is log entry 5;
that a read of a word that was never written goes on with some value is log entry 1.) -/
def Obligations.NobodyMovesAndEndIsObserved : Prop :=
  ∀ (c : Configuration) (s : State),
    (turnOf s = none ↔ s.schedule = [] ∧ s.program = [] ∧ s.seq = .idle) ∧
      (turnOf s = none → step s = .next s ∧ (s.fault = none → runEnded s)) ∧
      (runEnded s → ∃ o : Observation, observe c s = some o ∧ o.key = s.key ∧
        busRead c .w32 0x00#8 s = (some o.cfg, s) ∧ busRead c .w32 0x04#8 s = (some o.status, s) ∧
        busRead c .w32 0x0C#8 s = (some o.rounds, s) ∧
        ∀ w : Fin N,
          (match o.keyin[w] with
            | some x => busRead c .w32 (keyinOffset w) s = (some (x.setWidth 32), s)
            | none => ∃ d : Word, busRead c .w32 (keyinOffset w) s =
              (some (d.setWidth 32), { s with draws := s.draws + 1, fault := some .unwrittenRead })) ∧
          match o.data[w] with
            | some x => busRead c .w32 (dataOffset w) s = (some (x.setWidth 32), s)
            | none => ∃ d : Word, busRead c .w32 (dataOffset w) s =
              (some (d.setWidth 32), { s with draws := s.draws + 1, fault := some .unwrittenRead })) ∧
      (s.busy = true ∨ s.program ≠ [] ∨ s.fault ≠ none → observe c s = none)

/-- R100, WR and RD at the level of a step: on the host's turn a WR is the bus write of its value, with that statement and that
turn used; and a RD makes its bus read and moves past the statement: a value goes into the statement's variable, a read
without one (a BusFault, R62) leaves it as it was, every other variable is kept, and the rest of the state is as the bus read
leaves it. (The program and the turn are the model's choice, log entries 4 and 5; what a read without a value does to its
variable is log entry 13.) -/
def Obligations.HostRunsOneStatement : Prop :=
  ∀ (s : State) (width : Width) (off : Byte) (rest : List Stmt), turnOf s = some .host →
    (∀ v : BusWord, s.program = .write width off v :: rest →
      step s = busWrite exec width off v { s with program := rest, schedule := s.schedule.tail }) ∧
      ∀ (n : Nat) (x : Option BusWord) (u : State), s.program = .read width off n :: rest →
        busRead Config.chip.cfg width off s = (x, u) →
        ∃ t : State, step s = .next t ∧ t.var n = (match x with | some v => some v | none => s.var n) ∧
          (∀ m : Nat, m ≠ n → t.var m = s.var m) ∧
          t = { u with program := rest, vars := t.vars, schedule := s.schedule.tail }

end Statements
end

