-- ==== Sys2Proof/Laws/State.lean ====
section
/-! SUPPORT. What each named update does to each field, one lemma a field and update. -/

namespace Sys2Proof.Machine

@[simp] theorem State.raise_data (s : State) (e : Error) : (s.raise e).data = s.data := by
  unfold State.raise; split <;> rfl
@[simp] theorem State.raise_dataWritten (s : State) (e : Error) : (s.raise e).dataWritten = s.dataWritten := by
  unfold State.raise; split <;> rfl
@[simp] theorem State.raise_keyin (s : State) (e : Error) : (s.raise e).keyin = s.keyin := by
  unfold State.raise; split <;> rfl
@[simp] theorem State.raise_keyinWritten (s : State) (e : Error) : (s.raise e).keyinWritten = s.keyinWritten := by
  unfold State.raise; split <;> rfl
@[simp] theorem State.raise_key (s : State) (e : Error) : (s.raise e).key = s.key := by
  unfold State.raise; split <;> rfl
@[simp] theorem State.raise_rounds (s : State) (e : Error) : (s.raise e).rounds = s.rounds := by
  unfold State.raise; split <;> rfl
@[simp] theorem State.raise_keyValid (s : State) (e : Error) : (s.raise e).keyValid = s.keyValid := by
  unfold State.raise; split <;> rfl
@[simp] theorem State.raise_done (s : State) (e : Error) : (s.raise e).done = s.done := by
  unfold State.raise; split <;> rfl
@[simp] theorem State.raise_warn (s : State) (e : Error) : (s.raise e).warn = s.warn := by
  unfold State.raise; split <;> rfl
@[simp] theorem State.raise_errovf (s : State) (e : Error) : (s.raise e).errovf = (s.errovf || s.err.isSome) := by
  unfold State.raise; split <;> simp [*]
@[simp] theorem State.raise_err (s : State) (e : Error) : (s.raise e).err = (match s.err with | none => some e | some x => some x) := by
  unfold State.raise; split <;> simp [*]
@[simp] theorem State.raise_seq (s : State) (e : Error) : (s.raise e).seq = s.seq := by
  unfold State.raise; split <;> rfl
@[simp] theorem State.raise_fault (s : State) (e : Error) : (s.raise e).fault = s.fault := by
  unfold State.raise; split <;> rfl
@[simp] theorem State.raise_program (s : State) (e : Error) : (s.raise e).program = s.program := by
  unfold State.raise; split <;> rfl
@[simp] theorem State.raise_vars (s : State) (e : Error) : (s.raise e).vars = s.vars := by
  unfold State.raise; split <;> rfl
@[simp] theorem State.raise_schedule (s : State) (e : Error) : (s.raise e).schedule = s.schedule := by
  unfold State.raise; split <;> rfl
@[simp] theorem State.raise_draws (s : State) (e : Error) : (s.raise e).draws = s.draws := by
  unfold State.raise; split <;> rfl

@[simp] theorem State.clearStatus_data (s : State) (done warn errovf err : Bool) : (s.clearStatus done warn errovf err).data = s.data :=
  rfl
@[simp] theorem State.clearStatus_dataWritten (s : State) (done warn errovf err : Bool) : (s.clearStatus done warn errovf err).dataWritten = s.dataWritten :=
  rfl
@[simp] theorem State.clearStatus_keyin (s : State) (done warn errovf err : Bool) : (s.clearStatus done warn errovf err).keyin = s.keyin :=
  rfl
@[simp] theorem State.clearStatus_keyinWritten (s : State) (done warn errovf err : Bool) : (s.clearStatus done warn errovf err).keyinWritten = s.keyinWritten :=
  rfl
@[simp] theorem State.clearStatus_key (s : State) (done warn errovf err : Bool) : (s.clearStatus done warn errovf err).key = s.key :=
  rfl
@[simp] theorem State.clearStatus_rounds (s : State) (done warn errovf err : Bool) : (s.clearStatus done warn errovf err).rounds = s.rounds :=
  rfl
@[simp] theorem State.clearStatus_keyValid (s : State) (done warn errovf err : Bool) : (s.clearStatus done warn errovf err).keyValid = s.keyValid :=
  rfl
@[simp] theorem State.clearStatus_done (s : State) (done warn errovf err : Bool) : (s.clearStatus done warn errovf err).done = (s.done && !done) :=
  rfl
@[simp] theorem State.clearStatus_warn (s : State) (done warn errovf err : Bool) : (s.clearStatus done warn errovf err).warn = (s.warn && !warn) :=
  rfl
@[simp] theorem State.clearStatus_errovf (s : State) (done warn errovf err : Bool) : (s.clearStatus done warn errovf err).errovf = (s.errovf && !errovf) :=
  rfl
@[simp] theorem State.clearStatus_err (s : State) (done warn errovf err : Bool) : (s.clearStatus done warn errovf err).err = if err then none else s.err :=
  rfl
@[simp] theorem State.clearStatus_seq (s : State) (done warn errovf err : Bool) : (s.clearStatus done warn errovf err).seq = s.seq :=
  rfl
@[simp] theorem State.clearStatus_fault (s : State) (done warn errovf err : Bool) : (s.clearStatus done warn errovf err).fault = s.fault :=
  rfl
@[simp] theorem State.clearStatus_program (s : State) (done warn errovf err : Bool) : (s.clearStatus done warn errovf err).program = s.program :=
  rfl
@[simp] theorem State.clearStatus_vars (s : State) (done warn errovf err : Bool) : (s.clearStatus done warn errovf err).vars = s.vars :=
  rfl
@[simp] theorem State.clearStatus_schedule (s : State) (done warn errovf err : Bool) : (s.clearStatus done warn errovf err).schedule = s.schedule :=
  rfl
@[simp] theorem State.clearStatus_draws (s : State) (done warn errovf err : Bool) : (s.clearStatus done warn errovf err).draws = s.draws :=
  rfl

@[simp] theorem State.complete_data (s : State) : (s.complete).data = s.data := rfl
@[simp] theorem State.complete_dataWritten (s : State) : (s.complete).dataWritten = s.dataWritten := rfl
@[simp] theorem State.complete_keyin (s : State) : (s.complete).keyin = s.keyin := rfl
@[simp] theorem State.complete_keyinWritten (s : State) : (s.complete).keyinWritten = s.keyinWritten := rfl
@[simp] theorem State.complete_key (s : State) : (s.complete).key = s.key := rfl
@[simp] theorem State.complete_rounds (s : State) : (s.complete).rounds = s.rounds := rfl
@[simp] theorem State.complete_keyValid (s : State) : (s.complete).keyValid = s.keyValid := rfl
@[simp] theorem State.complete_done (s : State) : (s.complete).done = true := rfl
@[simp] theorem State.complete_warn (s : State) : (s.complete).warn = s.warn := rfl
@[simp] theorem State.complete_errovf (s : State) : (s.complete).errovf = s.errovf := rfl
@[simp] theorem State.complete_err (s : State) : (s.complete).err = s.err := rfl
@[simp] theorem State.complete_seq (s : State) : (s.complete).seq = s.seq := rfl
@[simp] theorem State.complete_fault (s : State) : (s.complete).fault = s.fault := rfl
@[simp] theorem State.complete_program (s : State) : (s.complete).program = s.program := rfl
@[simp] theorem State.complete_vars (s : State) : (s.complete).vars = s.vars := rfl
@[simp] theorem State.complete_schedule (s : State) : (s.complete).schedule = s.schedule := rfl
@[simp] theorem State.complete_draws (s : State) : (s.complete).draws = s.draws := rfl

@[simp] theorem State.install_data (s : State) (key : Block) (rounds : Byte) (warns : Bool) : (s.install key rounds warns).data = s.data :=
  rfl
@[simp] theorem State.install_dataWritten (s : State) (key : Block) (rounds : Byte) (warns : Bool) : (s.install key rounds warns).dataWritten = s.dataWritten :=
  rfl
@[simp] theorem State.install_keyin (s : State) (key : Block) (rounds : Byte) (warns : Bool) : (s.install key rounds warns).keyin = s.keyin :=
  rfl
@[simp] theorem State.install_keyinWritten (s : State) (key : Block) (rounds : Byte) (warns : Bool) : (s.install key rounds warns).keyinWritten = s.keyinWritten :=
  rfl
@[simp] theorem State.install_key (s : State) (key : Block) (rounds : Byte) (warns : Bool) : (s.install key rounds warns).key = key :=
  rfl
@[simp] theorem State.install_rounds (s : State) (key : Block) (rounds : Byte) (warns : Bool) : (s.install key rounds warns).rounds = rounds :=
  rfl
@[simp] theorem State.install_keyValid (s : State) (key : Block) (rounds : Byte) (warns : Bool) : (s.install key rounds warns).keyValid = true :=
  rfl
@[simp] theorem State.install_done (s : State) (key : Block) (rounds : Byte) (warns : Bool) : (s.install key rounds warns).done = true :=
  rfl
@[simp] theorem State.install_warn (s : State) (key : Block) (rounds : Byte) (warns : Bool) : (s.install key rounds warns).warn = (s.warn || warns) :=
  rfl
@[simp] theorem State.install_errovf (s : State) (key : Block) (rounds : Byte) (warns : Bool) : (s.install key rounds warns).errovf = s.errovf :=
  rfl
@[simp] theorem State.install_err (s : State) (key : Block) (rounds : Byte) (warns : Bool) : (s.install key rounds warns).err = s.err :=
  rfl
@[simp] theorem State.install_seq (s : State) (key : Block) (rounds : Byte) (warns : Bool) : (s.install key rounds warns).seq = s.seq :=
  rfl
@[simp] theorem State.install_fault (s : State) (key : Block) (rounds : Byte) (warns : Bool) : (s.install key rounds warns).fault = s.fault :=
  rfl
@[simp] theorem State.install_program (s : State) (key : Block) (rounds : Byte) (warns : Bool) : (s.install key rounds warns).program = s.program :=
  rfl
@[simp] theorem State.install_vars (s : State) (key : Block) (rounds : Byte) (warns : Bool) : (s.install key rounds warns).vars = s.vars :=
  rfl
@[simp] theorem State.install_schedule (s : State) (key : Block) (rounds : Byte) (warns : Bool) : (s.install key rounds warns).schedule = s.schedule :=
  rfl
@[simp] theorem State.install_draws (s : State) (key : Block) (rounds : Byte) (warns : Bool) : (s.install key rounds warns).draws = s.draws :=
  rfl

@[simp] theorem State.uninstall_data (s : State) : (s.uninstall).data = s.data := rfl
@[simp] theorem State.uninstall_dataWritten (s : State) : (s.uninstall).dataWritten = s.dataWritten := rfl
@[simp] theorem State.uninstall_keyin (s : State) : (s.uninstall).keyin = s.keyin := rfl
@[simp] theorem State.uninstall_keyinWritten (s : State) : (s.uninstall).keyinWritten = s.keyinWritten := rfl
@[simp] theorem State.uninstall_key (s : State) : (s.uninstall).key = .replicate N 0 := rfl
@[simp] theorem State.uninstall_rounds (s : State) : (s.uninstall).rounds = 0 := rfl
@[simp] theorem State.uninstall_keyValid (s : State) : (s.uninstall).keyValid = false := rfl
@[simp] theorem State.uninstall_done (s : State) : (s.uninstall).done = true := rfl
@[simp] theorem State.uninstall_warn (s : State) : (s.uninstall).warn = s.warn := rfl
@[simp] theorem State.uninstall_errovf (s : State) : (s.uninstall).errovf = s.errovf := rfl
@[simp] theorem State.uninstall_err (s : State) : (s.uninstall).err = s.err := rfl
@[simp] theorem State.uninstall_seq (s : State) : (s.uninstall).seq = s.seq := rfl
@[simp] theorem State.uninstall_fault (s : State) : (s.uninstall).fault = s.fault := rfl
@[simp] theorem State.uninstall_program (s : State) : (s.uninstall).program = s.program := rfl
@[simp] theorem State.uninstall_vars (s : State) : (s.uninstall).vars = s.vars := rfl
@[simp] theorem State.uninstall_schedule (s : State) : (s.uninstall).schedule = s.schedule := rfl
@[simp] theorem State.uninstall_draws (s : State) : (s.uninstall).draws = s.draws := rfl

@[simp] theorem State.begin_data (s : State) (q : Seq) : (s.begin q).data = s.data := rfl
@[simp] theorem State.begin_dataWritten (s : State) (q : Seq) : (s.begin q).dataWritten = s.dataWritten := rfl
@[simp] theorem State.begin_keyin (s : State) (q : Seq) : (s.begin q).keyin = s.keyin := rfl
@[simp] theorem State.begin_keyinWritten (s : State) (q : Seq) : (s.begin q).keyinWritten = s.keyinWritten := rfl
@[simp] theorem State.begin_key (s : State) (q : Seq) : (s.begin q).key = s.key := rfl
@[simp] theorem State.begin_rounds (s : State) (q : Seq) : (s.begin q).rounds = s.rounds := rfl
@[simp] theorem State.begin_keyValid (s : State) (q : Seq) : (s.begin q).keyValid = s.keyValid := rfl
@[simp] theorem State.begin_done (s : State) (q : Seq) : (s.begin q).done = false := rfl
@[simp] theorem State.begin_warn (s : State) (q : Seq) : (s.begin q).warn = s.warn := rfl
@[simp] theorem State.begin_errovf (s : State) (q : Seq) : (s.begin q).errovf = s.errovf := rfl
@[simp] theorem State.begin_err (s : State) (q : Seq) : (s.begin q).err = s.err := rfl
@[simp] theorem State.begin_seq (s : State) (q : Seq) : (s.begin q).seq = q := rfl
@[simp] theorem State.begin_fault (s : State) (q : Seq) : (s.begin q).fault = s.fault := rfl
@[simp] theorem State.begin_program (s : State) (q : Seq) : (s.begin q).program = s.program := rfl
@[simp] theorem State.begin_vars (s : State) (q : Seq) : (s.begin q).vars = s.vars := rfl
@[simp] theorem State.begin_schedule (s : State) (q : Seq) : (s.begin q).schedule = s.schedule := rfl
@[simp] theorem State.begin_draws (s : State) (q : Seq) : (s.begin q).draws = s.draws := rfl

@[simp] theorem State.writeKeyin_data (s : State) (w : Fin N) (v : Word) : (s.writeKeyin w v).data = s.data := rfl
@[simp] theorem State.writeKeyin_dataWritten (s : State) (w : Fin N) (v : Word) : (s.writeKeyin w v).dataWritten = s.dataWritten :=
  rfl
@[simp] theorem State.writeKeyin_keyin (s : State) (w : Fin N) (v : Word) : (s.writeKeyin w v).keyin = s.keyin.set w v :=
  rfl
@[simp] theorem State.writeKeyin_keyinWritten (s : State) (w : Fin N) (v : Word) : (s.writeKeyin w v).keyinWritten = s.keyinWritten.set w true :=
  rfl
@[simp] theorem State.writeKeyin_key (s : State) (w : Fin N) (v : Word) : (s.writeKeyin w v).key = s.key := rfl
@[simp] theorem State.writeKeyin_rounds (s : State) (w : Fin N) (v : Word) : (s.writeKeyin w v).rounds = s.rounds :=
  rfl
@[simp] theorem State.writeKeyin_keyValid (s : State) (w : Fin N) (v : Word) : (s.writeKeyin w v).keyValid = s.keyValid :=
  rfl
@[simp] theorem State.writeKeyin_done (s : State) (w : Fin N) (v : Word) : (s.writeKeyin w v).done = s.done := rfl
@[simp] theorem State.writeKeyin_warn (s : State) (w : Fin N) (v : Word) : (s.writeKeyin w v).warn = s.warn := rfl
@[simp] theorem State.writeKeyin_errovf (s : State) (w : Fin N) (v : Word) : (s.writeKeyin w v).errovf = s.errovf :=
  rfl
@[simp] theorem State.writeKeyin_err (s : State) (w : Fin N) (v : Word) : (s.writeKeyin w v).err = s.err := rfl
@[simp] theorem State.writeKeyin_seq (s : State) (w : Fin N) (v : Word) : (s.writeKeyin w v).seq = s.seq := rfl
@[simp] theorem State.writeKeyin_fault (s : State) (w : Fin N) (v : Word) : (s.writeKeyin w v).fault = s.fault := rfl
@[simp] theorem State.writeKeyin_program (s : State) (w : Fin N) (v : Word) : (s.writeKeyin w v).program = s.program :=
  rfl
@[simp] theorem State.writeKeyin_vars (s : State) (w : Fin N) (v : Word) : (s.writeKeyin w v).vars = s.vars := rfl
@[simp] theorem State.writeKeyin_schedule (s : State) (w : Fin N) (v : Word) : (s.writeKeyin w v).schedule = s.schedule :=
  rfl
@[simp] theorem State.writeKeyin_draws (s : State) (w : Fin N) (v : Word) : (s.writeKeyin w v).draws = s.draws := rfl

@[simp] theorem State.writeData_data (s : State) (w : Fin N) (v : Word) : (s.writeData w v).data = s.data.set w v :=
  rfl
@[simp] theorem State.writeData_dataWritten (s : State) (w : Fin N) (v : Word) : (s.writeData w v).dataWritten = s.dataWritten.set w true :=
  rfl
@[simp] theorem State.writeData_keyin (s : State) (w : Fin N) (v : Word) : (s.writeData w v).keyin = s.keyin := rfl
@[simp] theorem State.writeData_keyinWritten (s : State) (w : Fin N) (v : Word) : (s.writeData w v).keyinWritten = s.keyinWritten :=
  rfl
@[simp] theorem State.writeData_key (s : State) (w : Fin N) (v : Word) : (s.writeData w v).key = s.key := rfl
@[simp] theorem State.writeData_rounds (s : State) (w : Fin N) (v : Word) : (s.writeData w v).rounds = s.rounds := rfl
@[simp] theorem State.writeData_keyValid (s : State) (w : Fin N) (v : Word) : (s.writeData w v).keyValid = s.keyValid :=
  rfl
@[simp] theorem State.writeData_done (s : State) (w : Fin N) (v : Word) : (s.writeData w v).done = s.done := rfl
@[simp] theorem State.writeData_warn (s : State) (w : Fin N) (v : Word) : (s.writeData w v).warn = s.warn := rfl
@[simp] theorem State.writeData_errovf (s : State) (w : Fin N) (v : Word) : (s.writeData w v).errovf = s.errovf := rfl
@[simp] theorem State.writeData_err (s : State) (w : Fin N) (v : Word) : (s.writeData w v).err = s.err := rfl
@[simp] theorem State.writeData_seq (s : State) (w : Fin N) (v : Word) : (s.writeData w v).seq = s.seq := rfl
@[simp] theorem State.writeData_fault (s : State) (w : Fin N) (v : Word) : (s.writeData w v).fault = s.fault := rfl
@[simp] theorem State.writeData_program (s : State) (w : Fin N) (v : Word) : (s.writeData w v).program = s.program :=
  rfl
@[simp] theorem State.writeData_vars (s : State) (w : Fin N) (v : Word) : (s.writeData w v).vars = s.vars := rfl
@[simp] theorem State.writeData_schedule (s : State) (w : Fin N) (v : Word) : (s.writeData w v).schedule = s.schedule :=
  rfl
@[simp] theorem State.writeData_draws (s : State) (w : Fin N) (v : Word) : (s.writeData w v).draws = s.draws := rfl

@[simp] theorem State.drawn_data (s : State) (n : Nat) : (s.drawn n).data = s.data := rfl
@[simp] theorem State.drawn_dataWritten (s : State) (n : Nat) : (s.drawn n).dataWritten = s.dataWritten := rfl
@[simp] theorem State.drawn_keyin (s : State) (n : Nat) : (s.drawn n).keyin = s.keyin := rfl
@[simp] theorem State.drawn_keyinWritten (s : State) (n : Nat) : (s.drawn n).keyinWritten = s.keyinWritten := rfl
@[simp] theorem State.drawn_key (s : State) (n : Nat) : (s.drawn n).key = s.key := rfl
@[simp] theorem State.drawn_rounds (s : State) (n : Nat) : (s.drawn n).rounds = s.rounds := rfl
@[simp] theorem State.drawn_keyValid (s : State) (n : Nat) : (s.drawn n).keyValid = s.keyValid := rfl
@[simp] theorem State.drawn_done (s : State) (n : Nat) : (s.drawn n).done = s.done := rfl
@[simp] theorem State.drawn_warn (s : State) (n : Nat) : (s.drawn n).warn = s.warn := rfl
@[simp] theorem State.drawn_errovf (s : State) (n : Nat) : (s.drawn n).errovf = s.errovf := rfl
@[simp] theorem State.drawn_err (s : State) (n : Nat) : (s.drawn n).err = s.err := rfl
@[simp] theorem State.drawn_seq (s : State) (n : Nat) : (s.drawn n).seq = s.seq := rfl
@[simp] theorem State.drawn_fault (s : State) (n : Nat) : (s.drawn n).fault = s.fault := rfl
@[simp] theorem State.drawn_program (s : State) (n : Nat) : (s.drawn n).program = s.program := rfl
@[simp] theorem State.drawn_vars (s : State) (n : Nat) : (s.drawn n).vars = s.vars := rfl
@[simp] theorem State.drawn_schedule (s : State) (n : Nat) : (s.drawn n).schedule = s.schedule := rfl
@[simp] theorem State.drawn_draws (s : State) (n : Nat) : (s.drawn n).draws = s.draws + n := rfl

@[simp] theorem State.setVar_data (s : State) (t : Nat) (v : BusWord) : (s.setVar t v).data = s.data := rfl
@[simp] theorem State.setVar_dataWritten (s : State) (t : Nat) (v : BusWord) : (s.setVar t v).dataWritten = s.dataWritten :=
  rfl
@[simp] theorem State.setVar_keyin (s : State) (t : Nat) (v : BusWord) : (s.setVar t v).keyin = s.keyin := rfl
@[simp] theorem State.setVar_keyinWritten (s : State) (t : Nat) (v : BusWord) : (s.setVar t v).keyinWritten = s.keyinWritten :=
  rfl
@[simp] theorem State.setVar_key (s : State) (t : Nat) (v : BusWord) : (s.setVar t v).key = s.key := rfl
@[simp] theorem State.setVar_rounds (s : State) (t : Nat) (v : BusWord) : (s.setVar t v).rounds = s.rounds := rfl
@[simp] theorem State.setVar_keyValid (s : State) (t : Nat) (v : BusWord) : (s.setVar t v).keyValid = s.keyValid :=
  rfl
@[simp] theorem State.setVar_done (s : State) (t : Nat) (v : BusWord) : (s.setVar t v).done = s.done := rfl
@[simp] theorem State.setVar_warn (s : State) (t : Nat) (v : BusWord) : (s.setVar t v).warn = s.warn := rfl
@[simp] theorem State.setVar_errovf (s : State) (t : Nat) (v : BusWord) : (s.setVar t v).errovf = s.errovf := rfl
@[simp] theorem State.setVar_err (s : State) (t : Nat) (v : BusWord) : (s.setVar t v).err = s.err := rfl
@[simp] theorem State.setVar_seq (s : State) (t : Nat) (v : BusWord) : (s.setVar t v).seq = s.seq := rfl
@[simp] theorem State.setVar_fault (s : State) (t : Nat) (v : BusWord) : (s.setVar t v).fault = s.fault := rfl
@[simp] theorem State.setVar_program (s : State) (t : Nat) (v : BusWord) : (s.setVar t v).program = s.program := rfl
@[simp] theorem State.setVar_vars (s : State) (t : Nat) (v : BusWord) : (s.setVar t v).vars = assign t v s.vars := rfl
@[simp] theorem State.setVar_schedule (s : State) (t : Nat) (v : BusWord) : (s.setVar t v).schedule = s.schedule :=
  rfl
@[simp] theorem State.setVar_draws (s : State) (t : Nat) (v : BusWord) : (s.setVar t v).draws = s.draws := rfl

@[simp] theorem State.withProgram_data (s : State) (p : List Stmt) : (s.withProgram p).data = s.data := rfl
@[simp] theorem State.withProgram_dataWritten (s : State) (p : List Stmt) : (s.withProgram p).dataWritten = s.dataWritten :=
  rfl
@[simp] theorem State.withProgram_keyin (s : State) (p : List Stmt) : (s.withProgram p).keyin = s.keyin := rfl
@[simp] theorem State.withProgram_keyinWritten (s : State) (p : List Stmt) : (s.withProgram p).keyinWritten = s.keyinWritten :=
  rfl
@[simp] theorem State.withProgram_key (s : State) (p : List Stmt) : (s.withProgram p).key = s.key := rfl
@[simp] theorem State.withProgram_rounds (s : State) (p : List Stmt) : (s.withProgram p).rounds = s.rounds := rfl
@[simp] theorem State.withProgram_keyValid (s : State) (p : List Stmt) : (s.withProgram p).keyValid = s.keyValid :=
  rfl
@[simp] theorem State.withProgram_done (s : State) (p : List Stmt) : (s.withProgram p).done = s.done := rfl
@[simp] theorem State.withProgram_warn (s : State) (p : List Stmt) : (s.withProgram p).warn = s.warn := rfl
@[simp] theorem State.withProgram_errovf (s : State) (p : List Stmt) : (s.withProgram p).errovf = s.errovf := rfl
@[simp] theorem State.withProgram_err (s : State) (p : List Stmt) : (s.withProgram p).err = s.err := rfl
@[simp] theorem State.withProgram_seq (s : State) (p : List Stmt) : (s.withProgram p).seq = s.seq := rfl
@[simp] theorem State.withProgram_fault (s : State) (p : List Stmt) : (s.withProgram p).fault = s.fault := rfl
@[simp] theorem State.withProgram_program (s : State) (p : List Stmt) : (s.withProgram p).program = p := rfl
@[simp] theorem State.withProgram_vars (s : State) (p : List Stmt) : (s.withProgram p).vars = s.vars := rfl
@[simp] theorem State.withProgram_schedule (s : State) (p : List Stmt) : (s.withProgram p).schedule = s.schedule :=
  rfl
@[simp] theorem State.withProgram_draws (s : State) (p : List Stmt) : (s.withProgram p).draws = s.draws := rfl

@[simp] theorem State.turnUsed_data (s : State) : (s.turnUsed).data = s.data := rfl
@[simp] theorem State.turnUsed_dataWritten (s : State) : (s.turnUsed).dataWritten = s.dataWritten := rfl
@[simp] theorem State.turnUsed_keyin (s : State) : (s.turnUsed).keyin = s.keyin := rfl
@[simp] theorem State.turnUsed_keyinWritten (s : State) : (s.turnUsed).keyinWritten = s.keyinWritten := rfl
@[simp] theorem State.turnUsed_key (s : State) : (s.turnUsed).key = s.key := rfl
@[simp] theorem State.turnUsed_rounds (s : State) : (s.turnUsed).rounds = s.rounds := rfl
@[simp] theorem State.turnUsed_keyValid (s : State) : (s.turnUsed).keyValid = s.keyValid := rfl
@[simp] theorem State.turnUsed_done (s : State) : (s.turnUsed).done = s.done := rfl
@[simp] theorem State.turnUsed_warn (s : State) : (s.turnUsed).warn = s.warn := rfl
@[simp] theorem State.turnUsed_errovf (s : State) : (s.turnUsed).errovf = s.errovf := rfl
@[simp] theorem State.turnUsed_err (s : State) : (s.turnUsed).err = s.err := rfl
@[simp] theorem State.turnUsed_seq (s : State) : (s.turnUsed).seq = s.seq := rfl
@[simp] theorem State.turnUsed_fault (s : State) : (s.turnUsed).fault = s.fault := rfl
@[simp] theorem State.turnUsed_program (s : State) : (s.turnUsed).program = s.program := rfl
@[simp] theorem State.turnUsed_vars (s : State) : (s.turnUsed).vars = s.vars := rfl
@[simp] theorem State.turnUsed_schedule (s : State) : (s.turnUsed).schedule = s.schedule.tail := rfl
@[simp] theorem State.turnUsed_draws (s : State) : (s.turnUsed).draws = s.draws := rfl

@[simp] theorem State.resetBlock_data (s : State) : (s.resetBlock).data = .replicate N 0 := rfl
@[simp] theorem State.resetBlock_dataWritten (s : State) : (s.resetBlock).dataWritten = .replicate N false := rfl
@[simp] theorem State.resetBlock_keyin (s : State) : (s.resetBlock).keyin = .replicate N 0 := rfl
@[simp] theorem State.resetBlock_keyinWritten (s : State) : (s.resetBlock).keyinWritten = .replicate N false := rfl
@[simp] theorem State.resetBlock_key (s : State) : (s.resetBlock).key = .replicate N 0 := rfl
@[simp] theorem State.resetBlock_rounds (s : State) : (s.resetBlock).rounds = 0 := rfl
@[simp] theorem State.resetBlock_keyValid (s : State) : (s.resetBlock).keyValid = false := rfl
@[simp] theorem State.resetBlock_done (s : State) : (s.resetBlock).done = false := rfl
@[simp] theorem State.resetBlock_warn (s : State) : (s.resetBlock).warn = false := rfl
@[simp] theorem State.resetBlock_errovf (s : State) : (s.resetBlock).errovf = false := rfl
@[simp] theorem State.resetBlock_err (s : State) : (s.resetBlock).err = none := rfl
@[simp] theorem State.resetBlock_seq (s : State) : (s.resetBlock).seq = .idle := rfl
@[simp] theorem State.resetBlock_fault (s : State) : (s.resetBlock).fault = s.fault := rfl
@[simp] theorem State.resetBlock_program (s : State) : (s.resetBlock).program = s.program := rfl
@[simp] theorem State.resetBlock_vars (s : State) : (s.resetBlock).vars = s.vars := rfl
@[simp] theorem State.resetBlock_schedule (s : State) : (s.resetBlock).schedule = s.schedule := rfl
@[simp] theorem State.resetBlock_draws (s : State) : (s.resetBlock).draws = s.draws := rfl

@[simp] theorem State.raise_busy (s : State) (e : Error) : (s.raise e).busy = s.busy := by simp [State.busy]
@[simp] theorem State.clearStatus_busy (s : State) (done warn errovf err : Bool) : (s.clearStatus done warn errovf err).busy = s.busy := by simp [State.busy]
@[simp] theorem State.complete_busy (s : State) : (s.complete).busy = s.busy := by simp [State.busy]
@[simp] theorem State.install_busy (s : State) (key : Block) (rounds : Byte) (warns : Bool) : (s.install key rounds warns).busy = s.busy := by simp [State.busy]
@[simp] theorem State.uninstall_busy (s : State) : (s.uninstall).busy = s.busy := by simp [State.busy]
@[simp] theorem State.writeKeyin_busy (s : State) (w : Fin N) (v : Word) : (s.writeKeyin w v).busy = s.busy := by simp [State.busy]
@[simp] theorem State.writeData_busy (s : State) (w : Fin N) (v : Word) : (s.writeData w v).busy = s.busy := by simp [State.busy]
@[simp] theorem State.drawn_busy (s : State) (n : Nat) : (s.drawn n).busy = s.busy := by simp [State.busy]
@[simp] theorem State.setVar_busy (s : State) (t : Nat) (v : BusWord) : (s.setVar t v).busy = s.busy := by simp [State.busy]
@[simp] theorem State.withProgram_busy (s : State) (p : List Stmt) : (s.withProgram p).busy = s.busy := by simp [State.busy]
@[simp] theorem State.turnUsed_busy (s : State) : (s.turnUsed).busy = s.busy := by simp [State.busy]
@[simp] theorem State.resetBlock_busy (s : State) : s.resetBlock.busy = false := rfl

@[simp] theorem State.markFault_data (s : State) (f : FaultMark) : (s.markFault f).data = s.data := by
  unfold State.markFault; split <;> rfl
@[simp] theorem State.markFault_dataWritten (s : State) (f : FaultMark) : (s.markFault f).dataWritten = s.dataWritten := by
  unfold State.markFault; split <;> rfl
@[simp] theorem State.markFault_keyin (s : State) (f : FaultMark) : (s.markFault f).keyin = s.keyin := by
  unfold State.markFault; split <;> rfl
@[simp] theorem State.markFault_keyinWritten (s : State) (f : FaultMark) : (s.markFault f).keyinWritten = s.keyinWritten := by
  unfold State.markFault; split <;> rfl
@[simp] theorem State.markFault_key (s : State) (f : FaultMark) : (s.markFault f).key = s.key := by
  unfold State.markFault; split <;> rfl
@[simp] theorem State.markFault_rounds (s : State) (f : FaultMark) : (s.markFault f).rounds = s.rounds := by
  unfold State.markFault; split <;> rfl
@[simp] theorem State.markFault_keyValid (s : State) (f : FaultMark) : (s.markFault f).keyValid = s.keyValid := by
  unfold State.markFault; split <;> rfl
@[simp] theorem State.markFault_done (s : State) (f : FaultMark) : (s.markFault f).done = s.done := by
  unfold State.markFault; split <;> rfl
@[simp] theorem State.markFault_warn (s : State) (f : FaultMark) : (s.markFault f).warn = s.warn := by
  unfold State.markFault; split <;> rfl
@[simp] theorem State.markFault_errovf (s : State) (f : FaultMark) : (s.markFault f).errovf = s.errovf := by
  unfold State.markFault; split <;> rfl
@[simp] theorem State.markFault_err (s : State) (f : FaultMark) : (s.markFault f).err = s.err := by
  unfold State.markFault; split <;> rfl
@[simp] theorem State.markFault_seq (s : State) (f : FaultMark) : (s.markFault f).seq = s.seq := by
  unfold State.markFault; split <;> rfl
@[simp] theorem State.markFault_fault (s : State) (f : FaultMark) : (s.markFault f).fault = some (s.fault.getD f) := by
  unfold State.markFault; split <;> simp [*]
@[simp] theorem State.markFault_program (s : State) (f : FaultMark) : (s.markFault f).program = s.program := by
  unfold State.markFault; split <;> rfl
@[simp] theorem State.markFault_vars (s : State) (f : FaultMark) : (s.markFault f).vars = s.vars := by
  unfold State.markFault; split <;> rfl
@[simp] theorem State.markFault_schedule (s : State) (f : FaultMark) : (s.markFault f).schedule = s.schedule := by
  unfold State.markFault; split <;> rfl
@[simp] theorem State.markFault_draws (s : State) (f : FaultMark) : (s.markFault f).draws = s.draws := by
  unfold State.markFault; split <;> rfl

@[simp] theorem State.consume_data (s : State) (m : Marks) : (s.consume m).data = s.data := by
  unfold State.consume; split <;> simp
@[simp] theorem State.consume_dataWritten (s : State) (m : Marks) : (s.consume m).dataWritten = s.dataWritten := by
  unfold State.consume; split <;> simp
@[simp] theorem State.consume_keyin (s : State) (m : Marks) : (s.consume m).keyin = s.keyin := by
  unfold State.consume; split <;> simp
@[simp] theorem State.consume_keyinWritten (s : State) (m : Marks) : (s.consume m).keyinWritten = s.keyinWritten := by
  unfold State.consume; split <;> simp
@[simp] theorem State.consume_key (s : State) (m : Marks) : (s.consume m).key = s.key := by
  unfold State.consume; split <;> simp
@[simp] theorem State.consume_rounds (s : State) (m : Marks) : (s.consume m).rounds = s.rounds := by
  unfold State.consume; split <;> simp
@[simp] theorem State.consume_keyValid (s : State) (m : Marks) : (s.consume m).keyValid = s.keyValid := by
  unfold State.consume; split <;> simp
@[simp] theorem State.consume_done (s : State) (m : Marks) : (s.consume m).done = s.done := by
  unfold State.consume; split <;> simp
@[simp] theorem State.consume_warn (s : State) (m : Marks) : (s.consume m).warn = s.warn := by
  unfold State.consume; split <;> simp
@[simp] theorem State.consume_errovf (s : State) (m : Marks) : (s.consume m).errovf = s.errovf := by
  unfold State.consume; split <;> simp
@[simp] theorem State.consume_err (s : State) (m : Marks) : (s.consume m).err = s.err := by
  unfold State.consume; split <;> simp
@[simp] theorem State.consume_seq (s : State) (m : Marks) : (s.consume m).seq = s.seq := by
  unfold State.consume; split <;> simp
@[simp] theorem State.consume_fault (s : State) (m : Marks) :
    (s.consume m).fault = if allWritten m then s.fault else some (s.fault.getD .unwrittenRead) := by
  unfold State.consume; split <;> simp
@[simp] theorem State.consume_program (s : State) (m : Marks) : (s.consume m).program = s.program := by
  unfold State.consume; split <;> simp
@[simp] theorem State.consume_vars (s : State) (m : Marks) : (s.consume m).vars = s.vars := by
  unfold State.consume; split <;> simp
@[simp] theorem State.consume_schedule (s : State) (m : Marks) : (s.consume m).schedule = s.schedule := by
  unfold State.consume; split <;> simp
@[simp] theorem State.consume_draws (s : State) (m : Marks) :
    (s.consume m).draws = if allWritten m then s.draws else s.draws + N := by
  unfold State.consume; split <;> simp

@[simp] theorem State.takeData_data (s : State) :
    s.takeData.data = contents s.data s.dataWritten s.draws := rfl
@[simp] theorem State.takeData_dataWritten (s : State) : s.takeData.dataWritten = s.dataWritten :=
  State.consume_dataWritten s s.dataWritten
@[simp] theorem State.takeData_keyin (s : State) : s.takeData.keyin = s.keyin := State.consume_keyin s s.dataWritten
@[simp] theorem State.takeData_keyinWritten (s : State) : s.takeData.keyinWritten = s.keyinWritten := State.consume_keyinWritten s s.dataWritten
@[simp] theorem State.takeData_key (s : State) : s.takeData.key = s.key := State.consume_key s s.dataWritten
@[simp] theorem State.takeData_rounds (s : State) : s.takeData.rounds = s.rounds := State.consume_rounds s s.dataWritten
@[simp] theorem State.takeData_keyValid (s : State) : s.takeData.keyValid = s.keyValid := State.consume_keyValid s s.dataWritten
@[simp] theorem State.takeData_done (s : State) : s.takeData.done = s.done := State.consume_done s s.dataWritten
@[simp] theorem State.takeData_warn (s : State) : s.takeData.warn = s.warn := State.consume_warn s s.dataWritten
@[simp] theorem State.takeData_errovf (s : State) : s.takeData.errovf = s.errovf := State.consume_errovf s s.dataWritten
@[simp] theorem State.takeData_err (s : State) : s.takeData.err = s.err := State.consume_err s s.dataWritten
@[simp] theorem State.takeData_seq (s : State) : s.takeData.seq = s.seq := State.consume_seq s s.dataWritten
@[simp] theorem State.takeData_fault (s : State) :
    s.takeData.fault = if allWritten s.dataWritten then s.fault else some (s.fault.getD .unwrittenRead) := State.consume_fault s s.dataWritten
@[simp] theorem State.takeData_program (s : State) : s.takeData.program = s.program := State.consume_program s s.dataWritten
@[simp] theorem State.takeData_vars (s : State) : s.takeData.vars = s.vars := State.consume_vars s s.dataWritten
@[simp] theorem State.takeData_schedule (s : State) : s.takeData.schedule = s.schedule := State.consume_schedule s s.dataWritten
@[simp] theorem State.takeData_draws (s : State) :
    s.takeData.draws = if allWritten s.dataWritten then s.draws else s.draws + N := State.consume_draws s s.dataWritten

@[simp] theorem State.markFault_busy (s : State) (f : FaultMark) : (s.markFault f).busy = s.busy := by simp [State.busy]
@[simp] theorem State.consume_busy (s : State) (m : Marks) : (s.consume m).busy = s.busy := by simp [State.busy]
@[simp] theorem State.takeData_busy (s : State) : s.takeData.busy = s.busy := by simp [State.busy]

@[simp] theorem State.receive_none (s : State) (t : Nat) : s.receive t none = s := rfl
@[simp] theorem State.receive_some (s : State) (t : Nat) (v : BusWord) : s.receive t (some v) = s.setVar t v := rfl
@[simp] theorem State.receive_data (s : State) (t : Nat) (v : Option BusWord) : (s.receive t v).data = s.data := by
  cases v <;> rfl
@[simp] theorem State.receive_dataWritten (s : State) (t : Nat) (v : Option BusWord) : (s.receive t v).dataWritten = s.dataWritten := by
  cases v <;> rfl
@[simp] theorem State.receive_keyin (s : State) (t : Nat) (v : Option BusWord) : (s.receive t v).keyin = s.keyin := by
  cases v <;> rfl
@[simp] theorem State.receive_keyinWritten (s : State) (t : Nat) (v : Option BusWord) : (s.receive t v).keyinWritten = s.keyinWritten := by
  cases v <;> rfl
@[simp] theorem State.receive_key (s : State) (t : Nat) (v : Option BusWord) : (s.receive t v).key = s.key := by
  cases v <;> rfl
@[simp] theorem State.receive_rounds (s : State) (t : Nat) (v : Option BusWord) : (s.receive t v).rounds = s.rounds := by
  cases v <;> rfl
@[simp] theorem State.receive_keyValid (s : State) (t : Nat) (v : Option BusWord) : (s.receive t v).keyValid = s.keyValid := by
  cases v <;> rfl
@[simp] theorem State.receive_done (s : State) (t : Nat) (v : Option BusWord) : (s.receive t v).done = s.done := by
  cases v <;> rfl
@[simp] theorem State.receive_warn (s : State) (t : Nat) (v : Option BusWord) : (s.receive t v).warn = s.warn := by
  cases v <;> rfl
@[simp] theorem State.receive_errovf (s : State) (t : Nat) (v : Option BusWord) : (s.receive t v).errovf = s.errovf := by
  cases v <;> rfl
@[simp] theorem State.receive_err (s : State) (t : Nat) (v : Option BusWord) : (s.receive t v).err = s.err := by
  cases v <;> rfl
@[simp] theorem State.receive_seq (s : State) (t : Nat) (v : Option BusWord) : (s.receive t v).seq = s.seq := by
  cases v <;> rfl
@[simp] theorem State.receive_fault (s : State) (t : Nat) (v : Option BusWord) : (s.receive t v).fault = s.fault := by
  cases v <;> rfl
@[simp] theorem State.receive_program (s : State) (t : Nat) (v : Option BusWord) : (s.receive t v).program = s.program := by
  cases v <;> rfl
@[simp] theorem State.receive_schedule (s : State) (t : Nat) (v : Option BusWord) : (s.receive t v).schedule = s.schedule := by
  cases v <;> rfl
@[simp] theorem State.receive_draws (s : State) (t : Nat) (v : Option BusWord) : (s.receive t v).draws = s.draws := by
  cases v <;> rfl
@[simp] theorem State.receive_busy (s : State) (t : Nat) (v : Option BusWord) : (s.receive t v).busy = s.busy := by
  cases v <;> rfl
@[simp] theorem State.receive_vars (s : State) (t : Nat) (v : Option BusWord) :
    (s.receive t v).vars = match v with | none => s.vars | some x => assign t x s.vars := by
  cases v <;> rfl

end Sys2Proof.Machine
end

