-- ==== Sys2Proof/Laws/Ops.lean ====
section
/-! SUPPORT. What the shared operations can do: the marks, the recording of an Error, the acceptance checks and the host
variables, each said once. -/

namespace Sys2Proof.Machine

theorem allWritten_iff (m : Marks) : allWritten m = true ↔ ∀ w : Fin N, m[w] = true := decide_eq_true_iff

theorem allWritten_eq_false_iff (m : Marks) : allWritten m = false ↔ ∃ w : Fin N, m[w] = false := by
  have h := not_congr (allWritten_iff m)
  rw [Bool.not_eq_true] at h
  simp only [h, not_forall, Bool.not_eq_true]

theorem isIdle_iff (q : Seq) : q.isIdle = true ↔ q = .idle := by cases q <;> simp [Seq.isIdle]

theorem busy_iff (s : State) : s.busy = true ↔ s.seq ≠ .idle := by
  rw [← not_iff_not, not_not, ← isIdle_iff]
  simp [State.busy]

theorem busy_eq_false_iff (s : State) : s.busy = false ↔ s.seq = .idle := by
  rw [← isIdle_iff]
  simp [State.busy]

/-- Recording an Error writes ERR and ERROVF and nothing else. -/
theorem raise_eq (s : State) (e : Error) :
    s.raise e = { s with err := (s.raise e).err, errovf := (s.raise e).errovf } := by
  unfold State.raise
  split <;> rfl

/-- Recording a fault writes the fault field, where it is empty, and nothing else. -/
theorem markFault_eq (s : State) (f : FaultMark) : s.markFault f = { s with fault := some (s.fault.getD f) } := by
  obtain ⟨_, _, _, _, _, _, _, _, _, _, _, _, fault, _, _, _, _⟩ := s
  cases fault <;> rfl

/-- A written word is what the file holds. -/
theorem contents_written {file : Block} {marks : Marks} {n : Nat} {w : Fin N} (h : marks[w] = true) :
    (contents file marks n)[w] = file[w] := by
  simp_all [contents]

/-- A word that was never written is a free value. -/
theorem contents_unwritten {file : Block} {marks : Marks} {n : Nat} {w : Fin N} (h : marks[w] = false) :
    (contents file marks n)[w] = Config.draw (n + w.val) := by
  simp_all [contents]

/-- A file whose words are all written is what it holds. -/
theorem contents_of_allWritten {file : Block} {marks : Marks} {n : Nat} (h : allWritten marks = true) :
    contents file marks n = file := by
  apply Vector.ext
  intro w hw
  exact contents_written (w := ⟨w, hw⟩) ((allWritten_iff marks).mp h ⟨w, hw⟩)

theorem consume_of_allWritten {s : State} {marks : Marks} (h : allWritten marks = true) : s.consume marks = s := by
  simp [State.consume, h]

/-- Consuming a file with an unwritten word writes the fault field and the count of draws. -/
theorem consume_of_unwritten {s : State} {marks : Marks} (h : allWritten marks = false) :
    s.consume marks = { s with fault := some (s.fault.getD .unwrittenRead), draws := s.draws + N } := by
  simp [State.consume, h, markFault_eq, State.drawn]

theorem marks_eq_of_allWritten {marks : Marks} (h : allWritten marks = true) : marks = .replicate N true := by
  apply Vector.ext
  intro w hw
  simpa using (allWritten_iff marks).mp h ⟨w, hw⟩

/-- DATA with every word written is taken as it is. -/
theorem takeData_of_allWritten {s : State} (h : allWritten s.dataWritten = true) : s.takeData = s := by
  have hm := marks_eq_of_allWritten h
  obtain ⟨_, _, _, _, _, _, _, _, _, _, _, _, _, _, _, _, _⟩ := s
  simp_all [State.takeData, contents_of_allWritten]

/-- The acceptance checks pass exactly when the block is idle, the length is right where there is one, and there is an
instance where one is needed. -/
theorem acceptance_eq_none_iff (len : Option Byte) (needsKey : Bool) (s : State) :
    acceptance len needsKey s = none ↔
      s.busy = false ∧ (∀ l ∈ len, lengthOk l = true) ∧ (needsKey = true → s.keyValid = true) := by
  unfold acceptance
  cases s.busy <;> cases needsKey <;> cases s.keyValid <;> cases len <;> simp
  split <;> simp

/-- A command either is dropped with the Error its first failing check gives, or is accepted and runs. -/
theorem whenAccepted_cases {len : Option Byte} {needsKey : Bool} {s : State} {run : State → Result} {o : Result}
    (h : whenAccepted len needsKey s run = o) :
    (∃ e, acceptance len needsKey s = some e ∧ o = .next (s.raise e)) ∨
      (acceptance len needsKey s = none ∧ run s = o) := by
  unfold whenAccepted at h
  split at h
  · next e he => exact .inl ⟨e, he, h.symm⟩
  · next he => exact .inr ⟨he, h⟩

theorem whenAccepted_of_none {len : Option Byte} {needsKey : Bool} {s : State} {run : State → Result}
    (h : acceptance len needsKey s = none) : whenAccepted len needsKey s run = run s := by
  simp [whenAccepted, h]

theorem whenAccepted_of_some {len : Option Byte} {needsKey : Bool} {s : State} {run : State → Result} {e : Error}
    (h : acceptance len needsKey s = some e) : whenAccepted len needsKey s run = .next (s.raise e) := by
  simp [whenAccepted, h]

theorem lengthOk_iff (len : Byte) : lengthOk len = true ↔ len.toNat = 2 * N := by simp [lengthOk, blockBytes]

/-- A variable below a bound stays so when another below it is assigned. -/
theorem lt_of_mem_assign {t k : Nat} {v : BusWord} {l : List (Nat × BusWord)} (ht : k < t)
    (hl : ∀ p ∈ l, k < p.1) : ∀ p ∈ assign t v l, k < p.1 := by
  induction l with
  | nil => simpa [assign] using ht
  | cons a l ih =>
    obtain ⟨u, x⟩ := a
    have hu : k < u := hl (u, x) (by simp)
    have hl' : ∀ p ∈ l, k < p.1 := fun p hp => hl p (by simp [hp])
    unfold assign
    split
    · intro p hp
      rcases List.mem_cons.mp hp with rfl | hp
      · exact ht
      · exact hl p hp
    · split
      · intro p hp
        rcases List.mem_cons.mp hp with rfl | hp
        · exact ht
        · exact hl' p hp
      · intro p hp
        rcases List.mem_cons.mp hp with rfl | hp
        · exact hu
        · exact ih hl' p hp

/-- Assigning a variable keeps the numbers of the variables rising. -/
theorem assign_rising (t : Nat) (v : BusWord) (l : List (Nat × BusWord)) (h : l.Pairwise fun a b => a.1 < b.1) :
    (assign t v l).Pairwise fun a b => a.1 < b.1 := by
  induction l with
  | nil => simp [assign]
  | cons a l ih =>
    obtain ⟨u, x⟩ := a
    have h' := List.pairwise_cons.mp h
    unfold assign
    split
    · next hlt =>
      refine List.pairwise_cons.mpr ⟨fun p hp => ?_, h⟩
      rcases List.mem_cons.mp hp with rfl | hp
      · exact hlt
      · exact Nat.lt_trans hlt (h'.1 p hp)
    · next hlt =>
      split
      · next heq => exact List.pairwise_cons.mpr ⟨fun p hp => heq ▸ h'.1 p hp, h'.2⟩
      · next hne => exact List.pairwise_cons.mpr ⟨lt_of_mem_assign (by omega) h'.1, ih h'.2⟩

/-- A variable reads as it was assigned. -/
theorem lookup_assign (t : Nat) (v : BusWord) (l : List (Nat × BusWord)) : (assign t v l).lookup t = some v := by
  induction l with
  | nil => simp [assign]
  | cons a l ih =>
    obtain ⟨u, x⟩ := a
    unfold assign
    split
    · simp
    · split
      · simp
      · next hne =>
        have hb : (t == u) = false := by simpa using hne
        simp [List.lookup_cons, hb, ih]

/-- Another variable reads as before. -/
theorem lookup_assign_of_ne {t u : Nat} (v : BusWord) (l : List (Nat × BusWord)) (h : u ≠ t) :
    (assign t v l).lookup u = l.lookup u := by
  have hb : (u == t) = false := by simpa using h
  induction l with
  | nil => simp [assign, List.lookup_cons, hb]
  | cons a l ih =>
    obtain ⟨w, x⟩ := a
    unfold assign
    split
    · simp [List.lookup_cons, hb]
    · split
      · next heq => subst heq; simp [List.lookup_cons, hb]
      · simp [List.lookup_cons, ih]

@[simp] theorem State.setVar_var (s : State) (t : Nat) (v : BusWord) : (s.setVar t v).var t = some v :=
  lookup_assign t v s.vars

theorem State.setVar_var_of_ne (s : State) {t u : Nat} (v : BusWord) (h : u ≠ t) : (s.setVar t v).var u = s.var u :=
  lookup_assign_of_ne v s.vars h

end Sys2Proof.Machine
end

