-- ==== Sys2Proof/Laws/Bus.lean ====
section
/-! SUPPORT. What the register window can do: the map and its inverse, and the outcomes of a read, a write and the issue of
a command, each said once. -/

namespace Sys2Proof.Machine

theorem keyinOffset_toNat (w : Fin N) : (keyinOffset w).toNat = 0x40 + 4 * w.val := by
  have h : w.val < 8 := w.isLt
  simp only [keyinOffset, BitVec.toNat_ofNat]
  omega

theorem dataOffset_toNat (w : Fin N) : (dataOffset w).toNat = 0x80 + 4 * w.val := by
  have h : w.val < 8 := w.isLt
  simp only [dataOffset, BitVec.toNat_ofNat]
  omega

/-- The register at a register's own offset is that register. -/
theorem regAt_offset (r : Reg) : regAt r.offset = some r := by
  cases r with
  | cfg => rfl
  | status => rfl
  | cmd => rfl
  | rounds => rfl
  | keyin w => revert w; decide
  | data w => revert w; decide

/-- Every register's offset is a multiple of 4. -/
theorem offset_aligned (r : Reg) : r.offset.toNat % 4 = 0 := by
  cases r with
  | cfg => rfl
  | status => rfl
  | cmd => rfl
  | rounds => rfl
  | keyin w => revert w; decide
  | data w => revert w; decide

/-- An aligned offset that names a register is that register's own. -/
theorem offset_of_regAt {off : Byte} {r : Reg} (ha : off.toNat % 4 = 0) (h : regAt off = some r) :
    off = r.offset := by
  have key : ∀ o : Byte, o.toNat % 4 = 0 → ∀ q, regAt o = some q → o = q.offset := by
    intro o ho q hq
    unfold regAt at hq
    split at hq
    · next h0 => cases hq; exact BitVec.eq_of_toNat_eq h0
    split at hq
    · next h0 => cases hq; exact BitVec.eq_of_toNat_eq h0
    split at hq
    · next h0 => cases hq; exact BitVec.eq_of_toNat_eq h0
    split at hq
    · next h0 => cases hq; exact BitVec.eq_of_toNat_eq h0
    split at hq
    · next h0 =>
      cases hq
      apply BitVec.eq_of_toNat_eq
      show o.toNat = (keyinOffset (⟨(o.toNat - 0x40) / 4, h0.2⟩ : Fin N)).toNat
      rw [keyinOffset_toNat]
      show o.toNat = 0x40 + 4 * ((o.toNat - 0x40) / 4)
      omega
    split at hq
    · next h0 =>
      cases hq
      apply BitVec.eq_of_toNat_eq
      show o.toNat = (dataOffset (⟨(o.toNat - 0x80) / 4, h0.2⟩ : Fin N)).toNat
      rw [dataOffset_toNat]
      show o.toNat = 0x80 + 4 * ((o.toNat - 0x80) / 4)
      omega
    · cases hq
  exact key off ha r h

/-- An access passes the bus checks exactly when it is a 32-bit access at the offset of a mapped register. -/
theorem busCheck_eq_ok_iff {width : Width} {off : Byte} {r : Reg} :
    busCheck width off = .ok r ↔ width = .w32 ∧ off = r.offset := by
  constructor
  · intro h
    unfold busCheck at h
    split at h
    · cases h
    · next hw =>
      split at h
      · cases h
      · next ha =>
        split at h
        · cases h
        · next q hq =>
          cases h
          exact ⟨not_not.mp hw, offset_of_regAt (not_not.mp ha) hq⟩
  · rintro ⟨rfl, rfl⟩
    simp [busCheck, offset_aligned, regAt_offset]

theorem busRead_offset (c : Configuration) (r : Reg) (s : State) : busRead c .w32 r.offset s = (some (readReg c r s).1, (readReg c r s).2) := by
  have h := (busCheck_eq_ok_iff (r := r)).mpr ⟨rfl, rfl⟩
  simp [busRead, h]

theorem busWrite_offset (run : Instr → State → Result) (r : Reg) (v : BusWord) (s : State) :
    busWrite run .w32 r.offset v s = writeReg run r v s := by
  have h := (busCheck_eq_ok_iff (r := r)).mpr ⟨rfl, rfl⟩
  simp [busWrite, h]

/-- A register read leaves the state as it was, or takes a free value, for a DATA word of a busy block or for a word that was
never written, which it records as UnwrittenRead. -/
theorem readReg_cases (c : Configuration) (r : Reg) (s : State) :
    (readReg c r s).2 = s ∨ (s.busy = true ∧ (readReg c r s).2 = s.drawn 1) ∨
      ((readReg c r s).2 = (s.drawn 1).markFault .unwrittenRead ∧
        ((∃ w : Fin N, r = .keyin w ∧ s.keyinWritten[w] = false) ∨
          (s.busy = false ∧ ∃ w : Fin N, r = .data w ∧ s.dataWritten[w] = false))) := by
  cases r with
  | cfg => exact .inl rfl
  | status => exact .inl rfl
  | cmd => exact .inl rfl
  | rounds => exact .inl rfl
  | keyin w =>
    simp only [readReg]
    split
    · exact .inl rfl
    · next hm => exact .inr (.inr ⟨rfl, .inl ⟨w, rfl, by simpa using hm⟩⟩)
  | data w =>
    simp only [readReg]
    split
    · next hb => exact .inr (.inl ⟨hb, rfl⟩)
    · next hb =>
      split
      · exact .inl rfl
      · next hm => exact .inr (.inr ⟨rfl, .inr ⟨by simpa using hb, w, rfl, by simpa using hm⟩⟩)

/-- A bus read has no value and records a BusFault, or reads the register at its offset. -/
theorem busRead_cases (c : Configuration) (width : Width) (off : Byte) (s : State) :
    (∃ k, busCheck width off = .error k ∧ busRead c width off s = (none, s.markFault (.busFault k))) ∨
      ∃ r : Reg, width = .w32 ∧ off = r.offset ∧
        busRead c width off s = (some (readReg c r s).1, (readReg c r s).2) := by
  cases h : busCheck width off with
  | error k => exact .inl ⟨k, rfl, by simp [busRead, h]⟩
  | ok r =>
    obtain ⟨rfl, rfl⟩ := busCheck_eq_ok_iff.mp h
    exact .inr ⟨r, rfl, rfl, busRead_offset c r s⟩

/-- A read writes the fault field and the count of draws, and nothing else. -/
theorem busRead_frame (c : Configuration) (width : Width) (off : Byte) (s : State) :
    (busRead c width off s).2 =
      { s with fault := (busRead c width off s).2.fault, draws := (busRead c width off s).2.draws } := by
  rcases busRead_cases c width off s with ⟨k, _, h⟩ | ⟨r, _, _, h⟩ <;> rw [h]
  · simp [markFault_eq]
  · rcases readReg_cases c r s with h | ⟨_, h⟩ | ⟨h, _⟩ <;> simp [h, markFault_eq, State.drawn]

/-- A write records a BusFault, or acts on the register at its offset. -/
theorem busWrite_cases {run : Instr → State → Result} {width : Width} {off : Byte} {v : BusWord} {s : State}
    {o : Result} (h : busWrite run width off v s = o) :
    (∃ k, busCheck width off = .error k ∧ o = .next (s.markFault (.busFault k))) ∨
      ∃ r : Reg, width = .w32 ∧ off = r.offset ∧ writeReg run r v s = o := by
  unfold busWrite at h
  split at h
  · next k hk => exact .inl ⟨k, hk, h.symm⟩
  · next r hr =>
    obtain ⟨hw, ho⟩ := busCheck_eq_ok_iff.mp hr
    exact .inr ⟨r, hw, ho, h⟩

/-- Issuing a word drops it with one Error, or runs the command it decodes to on an idle block. -/
theorem issue_cases {run : Instr → State → Result} {word : BusWord} {s : State} {o : Result}
    (h : issue run word s = o) :
    (∃ e, o = .next (s.raise e)) ∨ (s.busy = false ∧ ∃ i, decode word = .ok i ∧ run i s = o) := by
  unfold issue at h
  split at h
  · exact .inl ⟨_, h.symm⟩
  · next hb =>
    split at h
    · exact .inl ⟨_, h.symm⟩
    · next i hi => exact .inr ⟨by simpa using hb, i, hi, h⟩

/-- A register read neither reads nor writes the host's program and the schedule. -/
theorem readReg_host (c : Configuration) (r : Reg) (s : State) (p : List Stmt) (ts : List Turn) :
    readReg c r { s with program := p, schedule := ts } =
      ((readReg c r s).1, { (readReg c r s).2 with program := p, schedule := ts }) := by
  have free : ∀ b : Bool, readFree b { s with program := p, schedule := ts } =
      ((readFree b s).1, { (readFree b s).2 with program := p, schedule := ts }) := by
    intro b
    cases b <;> simp [readFree, markFault_eq, State.drawn]
  cases r with
  | cfg => rfl
  | status => rfl
  | cmd => rfl
  | rounds => rfl
  | keyin w =>
    simp only [readReg, free]
    split <;> rfl
  | data w =>
    show (if s.busy then readFree false _ else if s.dataWritten[w] then _ else readFree true _) = _
    simp only [readReg, free]
    split
    · rfl
    · split <;> rfl

/-- A bus read neither reads nor writes the host's program and the schedule. -/
theorem busRead_host (c : Configuration) (width : Width) (off : Byte) (s : State) (p : List Stmt) (ts : List Turn) :
    busRead c width off { s with program := p, schedule := ts } =
      ((busRead c width off s).1, { (busRead c width off s).2 with program := p, schedule := ts }) := by
  unfold busRead
  cases busCheck width off with
  | error k => simp [markFault_eq]
  | ok r => simp [readReg_host]

end Sys2Proof.Machine
end

