-- ==== Sys2Proof/Laws/Command.lean ====
section
/-! SUPPORT. What a command can do: each meaning's outcomes said once, and what a bus write can do with them. -/

namespace Sys2Proof.Machine

/-- A command under the chip's configuration is exec. -/
theorem commandUnder_chip : commandUnder Config.chip.cfg = exec := by
  funext i s
  cases i <;> rfl

variable {c : Configuration}

theorem command_nop (s : State) :
    commandUnder c .nop s = whenAccepted none false s fun s => .next s.complete := rfl

theorem command_setup (len rnd : Byte) (s : State) :
    commandUnder c (.setup len rnd) s = whenAccepted (some len) false s fun s =>
      .next ((s.consume s.keyinWritten).install (contents s.keyin s.keyinWritten s.draws) (resolveRounds c rnd)
        (warnsOf c rnd)) := rfl

theorem command_encrypt (len : Byte) (s : State) :
    commandUnder c (.encrypt len) s = startOperation (.enc 0 .ek0) len s := rfl

theorem command_decrypt (len : Byte) (s : State) :
    commandUnder c (.decrypt len) s = startOperation (.dec 0 .dkey) len s := rfl

theorem command_release (s : State) :
    commandUnder c .release s = whenAccepted none false s fun s => .next s.uninstall := rfl

/-- The effect of an accepted command: `s` becomes `t`. -/
inductive Effect (c : Configuration) (s t : State) : Instr → Prop where
  | nop (h : t = s.complete) : Effect c s t .nop
  | setup (len rnd : Byte) (hl : lengthOk len = true)
      (h : t = (s.consume s.keyinWritten).install (contents s.keyin s.keyinWritten s.draws) (resolveRounds c rnd)
        (warnsOf c rnd)) : Effect c s t (.setup len rnd)
  | encrypt (len : Byte) (hl : lengthOk len = true) (hk : s.keyValid = true)
      (h : t = s.takeData.begin (.enc 0 .ek0)) : Effect c s t (.encrypt len)
  | decrypt (len : Byte) (hl : lengthOk len = true) (hk : s.keyValid = true)
      (h : t = s.takeData.begin (.dec 0 .dkey)) : Effect c s t (.decrypt len)
  | release (h : t = s.uninstall) : Effect c s t .release

/-- An operation that answers a state was dropped with an Error, or was accepted and starts. -/
theorem startOperation_next {q : Seq} {len : Byte} {s t : State} (h : startOperation q len s = .next t) :
    (∃ e, t = s.raise e) ∨
      (s.busy = false ∧ lengthOk len = true ∧ s.keyValid = true ∧ t = s.takeData.begin q) := by
  rcases whenAccepted_cases h with ⟨e, _, he⟩ | ⟨hn, hr⟩
  · exact .inl ⟨e, by injection he⟩
  · obtain ⟨hb, hl, hk⟩ := (acceptance_eq_none_iff _ _ _).mp hn
    exact .inr ⟨hb, hl len rfl, hk rfl, by injection hr with hr; exact hr.symm⟩

/-- A command that answers a state was dropped with an Error, or had its effect on an idle block. -/
theorem command_next {i : Instr} {s t : State} (h : commandUnder c i s = .next t) :
    (∃ e, t = s.raise e) ∨ (s.busy = false ∧ Effect c s t i) := by
  cases i with
  | nop =>
    rw [command_nop] at h
    rcases whenAccepted_cases h with ⟨e, _, he⟩ | ⟨hn, hr⟩
    · exact .inl ⟨e, by injection he⟩
    · exact .inr ⟨((acceptance_eq_none_iff _ _ _).mp hn).1, .nop (by injection hr with hr; exact hr.symm)⟩
  | setup len rnd =>
    rw [command_setup] at h
    rcases whenAccepted_cases h with ⟨e, _, he⟩ | ⟨hn, hr⟩
    · exact .inl ⟨e, by injection he⟩
    · obtain ⟨hb, hl, _⟩ := (acceptance_eq_none_iff _ _ _).mp hn
      exact .inr ⟨hb, .setup len rnd (hl len rfl) (by injection hr with hr; exact hr.symm)⟩
  | encrypt len =>
    rcases startOperation_next h with he | ⟨hb, hl, hk, ht⟩
    · exact .inl he
    · exact .inr ⟨hb, .encrypt len hl hk ht⟩
  | decrypt len =>
    rcases startOperation_next h with he | ⟨hb, hl, hk, ht⟩
    · exact .inl he
    · exact .inr ⟨hb, .decrypt len hl hk ht⟩
  | release =>
    rw [command_release] at h
    rcases whenAccepted_cases h with ⟨e, _, he⟩ | ⟨hn, hr⟩
    · exact .inl ⟨e, by injection he⟩
    · exact .inr ⟨((acceptance_eq_none_iff _ _ _).mp hn).1, .release (by injection hr with hr; exact hr.symm)⟩

/-- Every command answers a next state: it is dropped with an Error or has its effect. -/
theorem command_isNext (c : Configuration) (i : Instr) (s : State) : ∃ t, commandUnder c i s = .next t := by
  cases i <;>
    simp only [command_nop, command_setup, command_encrypt, command_decrypt, command_release, startOperation,
      whenAccepted] <;>
    split <;> exact ⟨_, rfl⟩

theorem command_ne_refused (c : Configuration) (i : Instr) (s : State) (r : Refusal) : commandUnder c i s ≠ .refused r := by
  obtain ⟨t, h⟩ := command_isNext c i s
  simp [h]

/-- What a write to a mapped register has done. -/
inductive RegisterEffect (c : Configuration) (off : Byte) (v : BusWord) (s t : State) : Prop where
  | ignored (ho : off = Reg.cfg.offset ∨ off = Reg.rounds.offset) (h : t = s)
  | status (ho : off = statusOffset) (h : t = s.writeStatus v)
  | keyin (w : Fin N) (ho : off = keyinOffset w) (h : t = s.writeKeyin w (v.setWidth 16))
  | data (w : Fin N) (ho : off = dataOffset w) (hb : s.busy = false) (h : t = s.writeData w (v.setWidth 16))
  | dropped (ho : off = cmdOffset ∨ ∃ w : Fin N, off = dataOffset w) (e : Error) (h : t = s.raise e)
  | command (ho : off = cmdOffset) (hb : s.busy = false) (i : Instr) (hd : decode v = .ok i) (h : Effect c s t i)

/-- What a bus write has done: it recorded a BusFault, or wrote a mapped register. -/
inductive WriteEffect (c : Configuration) (width : Width) (off : Byte) (v : BusWord) (s t : State) : Prop where
  | busFault (k : BusFaultKind) (hk : busCheck width off = .error k) (h : t = s.markFault (.busFault k))
  | register (hw : width = .w32) (h : RegisterEffect c off v s t)

theorem writeReg_next {r : Reg} {v : BusWord} {s t : State} (hr : writeReg (commandUnder c) r v s = .next t) :
    RegisterEffect c r.offset v s t := by
  cases r with
  | cfg => exact .ignored (.inl rfl) (by injection hr with hr; exact hr.symm)
  | rounds => exact .ignored (.inr rfl) (by injection hr with hr; exact hr.symm)
  | status => exact .status rfl (by injection hr with hr; exact hr.symm)
  | keyin w => exact .keyin w rfl (by injection hr with hr; exact hr.symm)
  | data w =>
    simp only [writeReg] at hr
    split at hr
    · exact .dropped (.inr ⟨w, rfl⟩) .busy (by injection hr with hr; exact hr.symm)
    · next hb => exact .data w rfl (by simpa using hb) (by injection hr with hr; exact hr.symm)
  | cmd =>
    rcases issue_cases hr with ⟨e, he⟩ | ⟨hb, i, hi, hx⟩
    · exact .dropped (.inl rfl) e (by injection he)
    · rcases command_next hx with ⟨e, he⟩ | ⟨_, hx⟩
      · exact .dropped (.inl rfl) e he
      · exact .command rfl hb i hi hx

theorem busWrite_next {width : Width} {off : Byte} {v : BusWord} {s t : State}
    (h : busWrite (commandUnder c) width off v s = .next t) : WriteEffect c width off v s t := by
  rcases busWrite_cases h with ⟨k, hk, he⟩ | ⟨r, hw, rfl, hr⟩
  · exact .busFault k hk (by injection he)
  · exact .register hw (writeReg_next hr)

/-- A write to a mapped register answers a next state. -/
theorem writeReg_isNext (c : Configuration) (r : Reg) (v : BusWord) (s : State) :
    ∃ t, writeReg (commandUnder c) r v s = .next t := by
  cases r with
  | cfg => exact ⟨_, rfl⟩
  | rounds => exact ⟨_, rfl⟩
  | status => exact ⟨_, rfl⟩
  | keyin w => exact ⟨_, rfl⟩
  | data w =>
    simp only [writeReg]
    split <;> exact ⟨_, rfl⟩
  | cmd =>
    simp only [writeReg, issue]
    split
    · exact ⟨_, rfl⟩
    · split
      · exact ⟨_, rfl⟩
      · exact command_isNext c _ s

/-- Every bus write answers a next state. -/
theorem busWrite_isNext (c : Configuration) (width : Width) (off : Byte) (v : BusWord) (s : State) :
    ∃ t, busWrite (commandUnder c) width off v s = .next t := by
  unfold busWrite
  split
  · exact ⟨_, rfl⟩
  · exact writeReg_isNext c _ v s

/-- A command that consumes a word that was never written: the only one that writes the fault field (R220). -/
inductive Consumes (s : State) : Instr → Prop where
  | setup (len rnd : Byte) (hw : allWritten s.keyinWritten = false) : Consumes s (.setup len rnd)
  | encrypt (len : Byte) (hw : allWritten s.dataWritten = false) : Consumes s (.encrypt len)
  | decrypt (len : Byte) (hw : allWritten s.dataWritten = false) : Consumes s (.decrypt len)

/-- The fault field after an accepted command. -/
theorem effect_fault {s t : State} {i : Instr} (h : Effect c s t i) :
    t.fault = s.fault ∨ (t.fault = some (s.fault.getD .unwrittenRead) ∧ Consumes s i) := by
  cases h with
  | nop h => subst h; exact .inl rfl
  | release h => subst h; exact .inl rfl
  | setup len rnd _ h =>
    subst h
    cases hw : allWritten s.keyinWritten with
    | true => exact .inl (by simp [hw])
    | false => exact .inr ⟨by simp [hw], .setup len rnd hw⟩
  | encrypt len _ _ h =>
    subst h
    cases hw : allWritten s.dataWritten with
    | true => exact .inl (by simp [hw])
    | false => exact .inr ⟨by simp [hw], .encrypt len hw⟩
  | decrypt len _ _ h =>
    subst h
    cases hw : allWritten s.dataWritten with
    | true => exact .inl (by simp [hw])
    | false => exact .inr ⟨by simp [hw], .decrypt len hw⟩

/-- The fault field after a bus write: as it was, or with the first fault recorded. -/
theorem writeEffect_fault {width : Width} {off : Byte} {v : BusWord} {s t : State} (h : WriteEffect c width off v s t) :
    t.fault = s.fault ∨ (∃ k, busCheck width off = .error k ∧ t.fault = some (s.fault.getD (.busFault k))) ∨
      (t.fault = some (s.fault.getD .unwrittenRead) ∧ s.busy = false ∧ width = .w32 ∧
        ∃ i, off = cmdOffset ∧ decode v = .ok i ∧ Consumes s i) := by
  cases h with
  | busFault k hk h => exact .inr (.inl ⟨k, hk, by rw [h]; simp⟩)
  | register hw h =>
    cases h with
    | ignored _ h => exact .inl (by rw [h])
    | status _ h => exact .inl (by rw [h]; rfl)
    | keyin w _ h => exact .inl (by rw [h]; rfl)
    | data w _ _ h => exact .inl (by rw [h]; rfl)
    | dropped _ e h => exact .inl (by rw [h]; simp)
    | command ho hb i hd h =>
      rcases effect_fault h with h | ⟨h, hc⟩
      · exact .inl h
      · exact .inr (.inr ⟨h, hb, hw, i, ho, hd, hc⟩)

/-- What exec can do, on the chip's configuration. -/
theorem exec_next {i : Instr} {s t : State} (h : exec i s = .next t) :
    (∃ e, t = s.raise e) ∨ (s.busy = false ∧ Effect Config.chip.cfg s t i) := by
  rw [← commandUnder_chip] at h
  exact command_next h

theorem exec_isNext (i : Instr) (s : State) : ∃ t, exec i s = .next t := by
  rw [← commandUnder_chip]
  exact command_isNext Config.chip.cfg i s

end Sys2Proof.Machine
end

