-- ==== Sys2Proof/Laws/Engine.lean ====
section
/-! SUPPORT. What an engine step can do. -/

namespace Sys2Proof.Machine

/-- A position has a layer exactly when the block is busy (R190). -/
theorem layerAt_eq_none_iff (R : Nat) (q : Seq) : layerAt R q = none ↔ q = .idle := by
  cases q with
  | idle => simp [layerAt]
  | enc i ph => cases ph <;> simp [layerAt]
  | dec i ph => cases ph <;> simp [layerAt]

theorem engineStep_idle (c : Configuration) {s : State} (h : s.seq = .idle) : engineStep c s = s := by
  simp [engineStep, h, layerAt]

/-- A step at a position with a layer. -/
theorem engineStep_of_layer (c : Configuration) {s : State} {l : Layer} (h : layerAt s.rounds.toNat s.seq = some l) :
    engineStep c s =
      { s with
        data := l.apply c s.key s.data
        dataWritten := .replicate N true
        seq := nextSeq s.rounds.toNat s.seq
        done := s.done || (nextSeq s.rounds.toNat s.seq).isIdle } := by
  simp [engineStep, h]

/-- An engine step writes DATA and its marks, seq and DONE and nothing else. -/
theorem engineStep_frame (c : Configuration) (s : State) :
    ∃ d m q b, engineStep c s = { s with data := d, dataWritten := m, seq := q, done := b } := by
  unfold engineStep
  split
  · exact ⟨s.data, s.dataWritten, s.seq, s.done, rfl⟩
  · exact ⟨_, _, _, _, rfl⟩

/-- A busy engine's step sets every mark of DATA (R21). -/
theorem engineStep_dataWritten (c : Configuration) {s : State} (h : s.seq ≠ .idle) :
    (engineStep c s).dataWritten = .replicate N true := by
  unfold engineStep
  split
  · next hl => exact absurd ((layerAt_eq_none_iff _ _).mp hl) h
  · rfl

/-- A busy engine's step moves on (R190). -/
theorem nextSeq_ne (R : Nat) {q : Seq} (h : q ≠ .idle) : nextSeq R q ≠ q := by
  cases q with
  | idle => exact absurd rfl h
  | enc i ph => cases ph <;> simp only [nextSeq] <;> (try split) <;> simp
  | dec i ph => cases ph <;> simp only [nextSeq] <;> (try split) <;> simp

theorem engineStep_seq (c : Configuration) (s : State) : (engineStep c s).seq = nextSeq s.rounds.toNat s.seq := by
  unfold engineStep
  split
  · next h => rw [(layerAt_eq_none_iff _ _).mp h]; rfl
  · rfl

theorem engineSteps_succ (c : Configuration) (n : Nat) (s : State) :
    engineSteps c (n + 1) s = engineSteps c n (engineStep c s) := rfl

theorem engineSteps_add (c : Configuration) (m n : Nat) (s : State) :
    engineSteps c (m + n) s = engineSteps c n (engineSteps c m s) := by
  induction m generalizing s with
  | zero => simp [engineSteps]
  | succ m ih => rw [Nat.succ_add, engineSteps_succ, ih, engineSteps_succ]

/-- The engine neither reads nor writes the host's program and variables or the schedule. -/
theorem engineStep_host (c : Configuration) (s : State) (p : List Stmt) (vs : List (Nat × BusWord)) (ts : List Turn) :
    engineStep c { s with program := p, vars := vs, schedule := ts } =
      { engineStep c s with program := p, vars := vs, schedule := ts } := by
  unfold engineStep
  dsimp only
  split <;> rfl

theorem engineSteps_host (c : Configuration) (n : Nat) (s : State) (p : List Stmt) (vs : List (Nat × BusWord))
    (ts : List Turn) :
    engineSteps c n { s with program := p, vars := vs, schedule := ts } =
      { engineSteps c n s with program := p, vars := vs, schedule := ts } := by
  induction n generalizing s with
  | zero => rfl
  | succ n ih => rw [engineSteps_succ, engineStep_host, ih, engineSteps_succ]

end Sys2Proof.Machine
end

