-- ==== Sys2Proof/Laws/Layers.lean ====
section
/-! SUPPORT. The words and columns of a layer's result, and when two blocks are equal. -/

namespace Sys2Proof.Machine

theorem block_ext {S T : Block} (h : ∀ w : Fin N, S[w] = T[w]) : S = T :=
  Vector.ext fun i hi => h ⟨i, hi⟩

theorem addKey_getElem (key S : Block) (w : Fin N) : (addKey key S)[w] = S[w] ^^^ key[w] := by
  simp [addKey]

theorem lin_getElem (c : Configuration) (S : Block) (w : Fin N) : (lin c S)[w] = linWord c S[w] := by
  simp [lin]

theorem invLin_getElem (c : Configuration) (S : Block) (w : Fin N) : (invLin c S)[w] = invLinWord c S[w] := by
  simp [invLin]

theorem column_getLsbD (S : Block) (j : Fin 16) (w : Fin N) : (column S j).getLsbD w = (S[w]).getLsbD j := by
  simp [column]

theorem onColumns_getLsbD (f : Column → Column) (S : Block) (w : Fin N) (j : Fin 16) :
    ((onColumns f S)[w]).getLsbD j = (f (column S j)).getLsbD w := by
  simp [onColumns]

/-- The columns of a column-wise layer. -/
theorem column_onColumns (f : Column → Column) (S : Block) (j : Fin 16) : column (onColumns f S) j = f (column S j) := by
  apply BitVec.eq_of_getLsbD_eq
  intro i hi
  have h := column_getLsbD (onColumns f S) j ⟨i, hi⟩
  exact h.trans (onColumns_getLsbD f S ⟨i, hi⟩ j)

/-- A block is its columns. -/
theorem column_ext {S T : Block} (h : ∀ j : Fin 16, column S j = column T j) : S = T := by
  apply block_ext
  intro w
  apply BitVec.eq_of_getLsbD_eq
  intro i hi
  have hs := column_getLsbD S ⟨i, hi⟩ w
  have ht := column_getLsbD T ⟨i, hi⟩ w
  rw [← hs, ← ht, h]

/-- Column-wise layers compose as their column functions do. -/
theorem onColumns_comp (f g : Column → Column) (S : Block) :
    onColumns f (onColumns g S) = onColumns (fun x => f (g x)) S := by
  apply column_ext
  intro j
  simp [column_onColumns]

theorem onColumns_id (S : Block) : onColumns (fun x => x) S = S := by
  apply column_ext
  intro j
  simp [column_onColumns]

/-- The diffusion law of the configuration is about the words the layers compute. -/
theorem invLinWord_linWord {c : Configuration} (h : c.DiffusionLaw) (x : Word) : invLinWord c (linWord c x) = x := h x

end Sys2Proof.Machine
end

