-- ==== Sys2Proof/Laws/PerInstr.lean ====
section
/-! SUPPORT. A statement about the encoding of every command, made per constructor: the reserved fields of an encoding are
zero and its OP is one of the five (spec/30_encoding.md R90, R91, R94). -/

namespace Sys2Proof.Laws.EncodingFields

/-- RSV0 and RSV1 of the encoding are zero, and OP is not reserved. -/
def Statement (i : Instr) : Prop :=
  rsv0Field (encode i) = 0 ∧ rsv1Field (encode i) = 0 ∧ (opField (encode i)).toNat < 5

/-- The fields of a command word that are not operands. -/
theorem commandWord_fields (len rnd : Byte) (op : BitVec 4) :
    rsv0Field (commandWord len rnd op) = 0 ∧ rsv1Field (commandWord len rnd op) = 0 ∧
      opField (commandWord len rnd op) = op := by
  refine ⟨?_, ?_, ?_⟩ <;> apply BitVec.eq_of_getLsbD_eq <;> intro i hi <;>
    interval_cases i <;> simp [commandWord, rsv0Field, rsv1Field, opField]

theorem nop : Statement .nop := by unfold Statement; decide

theorem setup (len rnd : Byte) : Statement (.setup len rnd) := by
  obtain ⟨h, h', h''⟩ := commandWord_fields len rnd 1
  exact ⟨h, h', lt_of_eq_of_lt (congrArg BitVec.toNat h'') (by decide)⟩

theorem encrypt (len : Byte) : Statement (.encrypt len) := by
  obtain ⟨h, h', h''⟩ := commandWord_fields len 0 2
  exact ⟨h, h', lt_of_eq_of_lt (congrArg BitVec.toNat h'') (by decide)⟩

theorem decrypt (len : Byte) : Statement (.decrypt len) := by
  obtain ⟨h, h', h''⟩ := commandWord_fields len 0 3
  exact ⟨h, h', lt_of_eq_of_lt (congrArg BitVec.toNat h'') (by decide)⟩

theorem release : Statement .release := by unfold Statement; decide

end Sys2Proof.Laws.EncodingFields
end

