-- ==== Sys2Proof/Laws/Step.lean ====
section
/-! SUPPORT. What a step can do, said once: the moves of the host, and the agents that move. -/

namespace Sys2Proof.Machine

variable {c : Configuration}

/-- What a move of the host that answers a state has done. -/
inductive HostEffect (c : Configuration) (s t : State) : Prop where
  | none (hp : s.program = []) (h : t = s)
  | write (width : Width) (off : Byte) (v : BusWord) (rest : List Stmt) (hp : s.program = .write width off v :: rest)
      (h : WriteEffect c width off v (s.withProgram rest) t)
  | read (width : Width) (off : Byte) (n : Nat) (rest : List Stmt) (hp : s.program = .read width off n :: rest)
      (h : t = (busRead c width off (s.withProgram rest)).2.receive n (busRead c width off (s.withProgram rest)).1)
  | pollAgain (n : Nat) (rest : List Stmt) (hp : s.program = .poll n :: rest) (hb : s.busy = true)
      (h : t = s.setVar n s.statusValue)
  | pollDone (n : Nat) (rest : List Stmt) (hp : s.program = .poll n :: rest) (hb : s.busy = false)
      (h : t = (s.withProgram rest).setVar n s.statusValue)

/-- Bit 0 of the STATUS value is BUSY. -/
theorem statusValue_bit_zero (s : State) : s.statusValue.getLsbD 0 = s.busy := by
  unfold State.statusValue flagBit
  cases s.busy <;> cases s.keyValid <;> cases s.done <;> cases s.warn <;> cases s.errovf <;> simp

/-- A POLL reads STATUS into its variable, and ends on an idle block (R100). -/
theorem hostMove_poll {run : Instr → State → Result} {s : State} {n : Nat} {rest : List Stmt}
    (hp : s.program = .poll n :: rest) :
    hostMove c run s = .next ((if s.busy then s else s.withProgram rest).setVar n s.statusValue) := by
  simp only [hostMove, hp, statusValue_bit_zero]

/-- A WR is its bus write, past the statement. -/
theorem hostMove_write {run : Instr → State → Result} {s : State} {width : Width} {off : Byte} {v : BusWord}
    {rest : List Stmt} (hp : s.program = .write width off v :: rest) :
    hostMove c run s = busWrite run width off v (s.withProgram rest) := by
  simp [hostMove, hp]

/-- A RD puts the value of its bus read, where it has one, into its variable. -/
theorem hostMove_read {run : Instr → State → Result} {s : State} {width : Width} {off : Byte} {n : Nat}
    {rest : List Stmt} (hp : s.program = .read width off n :: rest) :
    hostMove c run s =
      .next ((busRead c width off (s.withProgram rest)).2.receive n (busRead c width off (s.withProgram rest)).1) := by
  simp [hostMove, hp]

theorem hostMove_next {s t : State} (h : hostMove c (commandUnder c) s = .next t) : HostEffect c s t := by
  cases hp : s.program with
  | nil => exact .none hp (by simp only [hostMove, hp] at h; injection h with h; exact h.symm)
  | cons x rest =>
    cases x with
    | write width off v => exact .write width off v rest hp (busWrite_next ((hostMove_write hp).symm.trans h))
    | read width off n =>
      rw [hostMove_read hp] at h
      exact .read width off n rest hp (by injection h with h; exact h.symm)
    | poll n =>
      rw [hostMove_poll hp] at h
      injection h with h
      split at h
      · next hb => exact .pollAgain n rest hp hb h.symm
      · next hb => exact .pollDone n rest hp (by simpa using hb) h.symm

/-- Every move of the host answers a next state. -/
theorem hostMove_isNext (c : Configuration) (s : State) : ∃ t, hostMove c (commandUnder c) s = .next t := by
  unfold hostMove
  split
  · exact ⟨_, rfl⟩
  · exact busWrite_isNext c _ _ _ _
  · exact ⟨_, rfl⟩
  · exact ⟨_, rfl⟩

/-- What a step that answers a state has done: which agent moved, and what its move was. -/
inductive StepEffect (c : Configuration) (s t : State) : Prop where
  | wait (ht : turnOf s = none) (h : t = s)
  | host (ht : turnOf s = some .host) (h : HostEffect c s.turnUsed t)
  | engine (ht : turnOf s = some .engine) (h : t = engineStep c s.turnUsed)
  | reset (ht : turnOf s = some .reset) (h : t = s.turnUsed.resetBlock)

/-- A step is the move of the agent whose turn it is. -/
theorem stepBy_of_turn {s : State} {t : Turn} (ht : turnOf s = some t) :
    stepBy c (commandUnder c) s = move c (commandUnder c) t s.turnUsed := by
  simp [stepBy, ht]

theorem stepBy_of_no_turn {s : State} (ht : turnOf s = none) : stepBy c (commandUnder c) s = .next s := by
  simp [stepBy, ht]

/-- Every step answers a next state (R37, R190, R197). -/
theorem stepBy_isNext (c : Configuration) (s : State) : ∃ t, stepBy c (commandUnder c) s = .next t := by
  cases ht : turnOf s with
  | none => exact ⟨s, stepBy_of_no_turn ht⟩
  | some a =>
    rw [stepBy_of_turn ht]
    cases a with
    | host => exact hostMove_isNext c s.turnUsed
    | engine => exact ⟨_, rfl⟩
    | reset => exact ⟨_, rfl⟩

/-- The inversion of a step that answers a state. -/
theorem stepBy_next {s t : State} (h : stepBy c (commandUnder c) s = .next t) : StepEffect c s t := by
  cases ht : turnOf s with
  | none =>
    rw [stepBy_of_no_turn ht] at h
    exact .wait ht (by injection h with h; exact h.symm)
  | some a =>
    rw [stepBy_of_turn ht] at h
    cases a with
    | host => exact .host ht (hostMove_next h)
    | engine => exact .engine ht (by injection h with h; exact h.symm)
    | reset => exact .reset ht (by injection h with h; exact h.symm)

/-- The chip's step. -/
theorem step_eq (s : State) : step s = stepBy Config.chip.cfg (commandUnder Config.chip.cfg) s := by
  rw [commandUnder_chip]
  rfl

theorem step_of_turn {s : State} {t : Turn} (ht : turnOf s = some t) :
    step s = move Config.chip.cfg exec t s.turnUsed := by
  rw [step_eq, stepBy_of_turn ht, commandUnder_chip]

theorem step_of_no_turn {s : State} (ht : turnOf s = none) : step s = .next s := by
  rw [step_eq, stepBy_of_no_turn ht]

theorem step_isNext (s : State) : ∃ t, step s = .next t := by
  rw [step_eq]
  exact stepBy_isNext Config.chip.cfg s

theorem step_next {s t : State} (h : step s = .next t) : StepEffect Config.chip.cfg s t := by
  rw [step_eq] at h
  exact stepBy_next h

/-- A step under a configuration that answers a state: the configuration is admitted, and the step is one of its moves. -/
theorem stepUnder_next {s t : State} (h : stepUnder c s = .next t) : c.WellFormed ∧ StepEffect c s t := by
  unfold stepUnder at h
  split at h
  · next hc => exact ⟨hc, stepBy_next h⟩
  · cases h

/-- The fault field after a bus read: as it was, or with the first fault recorded. -/
theorem busRead_fault (c : Configuration) (width : Width) (off : Byte) (s : State) :
    (busRead c width off s).2.fault = s.fault ∨ ∃ f, (busRead c width off s).2.fault = some (s.fault.getD f) := by
  rcases busRead_cases c width off s with ⟨k, _, h⟩ | ⟨r, _, _, h⟩ <;> rw [h]
  · exact .inr ⟨_, State.markFault_fault s _⟩
  · rcases readReg_cases c r s with h | ⟨_, h⟩ | ⟨h, _⟩ <;> rw [h]
    · exact .inl rfl
    · exact .inl rfl
    · exact .inr ⟨_, State.markFault_fault (s.drawn 1) _⟩

/-- A move of the host keeps the fault field, or records the first fault in it (R220, R221). -/
theorem hostEffect_fault {s t : State} (h : HostEffect c s t) :
    t.fault = s.fault ∨ ∃ f, t.fault = some (s.fault.getD f) := by
  cases h with
  | none _ h => exact .inl (by rw [h])
  | write width off v rest _ h =>
    rcases writeEffect_fault h with h | ⟨k, _, h⟩ | ⟨h, _⟩
    · exact .inl h
    · exact .inr ⟨_, h⟩
    · exact .inr ⟨_, h⟩
  | read width off n rest _ h =>
    subst h
    simpa using busRead_fault c width off (s.withProgram rest)
  | pollAgain n rest _ _ h => exact .inl (by rw [h]; rfl)
  | pollDone n rest _ _ h => exact .inl (by rw [h]; rfl)

/-- A step keeps a recorded fault (R221). -/
theorem stepEffect_fault {s t : State} {f : FaultMark} (h : StepEffect c s t) (hf : s.fault = some f) :
    t.fault = some f := by
  cases h with
  | wait _ h => rw [h, hf]
  | host _ h => rcases hostEffect_fault h with h | ⟨g, h⟩ <;> simp [h, hf]
  | engine _ h =>
    obtain ⟨_, _, _, _, he⟩ := engineStep_frame c s.turnUsed
    rw [h, he]
    exact hf
  | reset _ h => rw [h]; exact hf

end Sys2Proof.Machine
end

