-- ==== Sys2Proof/Laws/Run.lean ====
section
/-! SUPPORT. Runs of several steps, and the steps a schedule that is used up gives. -/

namespace Sys2Proof.Machine

/-- A run goes on from the state its first step answers. -/
theorem run_succ_of_step {M : Host.Core} {n : Nat} {s t : M.State} (h : M.step s = .next t) :
    M.run (n + 1) s = M.run n t := by
  simp [Host.Core.run, h]

theorem run_succ_of_next {n : Nat} {s t : State} (h : step s = .next t) :
    Sys2Proof.core.run (n + 1) s = Sys2Proof.core.run n t := run_succ_of_step (M := Sys2Proof.core) h

/-- A state with no schedule left is the same once a turn is used. -/
theorem turnUsed_of_no_schedule {s : State} (hs : s.schedule = []) : s.turnUsed = s := by
  cases s
  simp only at hs
  subst hs
  rfl

theorem turnOf_busy {s : State} (hs : s.schedule = []) (hb : s.busy = true) : turnOf s = some .engine := by
  simp [turnOf, hs, hb]

theorem turnOf_host {s : State} {x : Stmt} {rest : List Stmt} (hs : s.schedule = []) (hb : s.busy = false)
    (hp : s.program = x :: rest) : turnOf s = some .host := by
  simp [turnOf, hs, hb, hp]

/-- With the schedule used up, a busy block takes an engine step. -/
theorem step_busy {s : State} (hs : s.schedule = []) (hb : s.busy = true) :
    step s = .next (engineStep Config.chip.cfg s) := by
  rw [step_of_turn (turnOf_busy hs hb), turnUsed_of_no_schedule hs]
  rfl

/-- With the schedule used up, an idle block whose host has a statement lets the host move. -/
theorem step_host {s : State} {x : Stmt} {rest : List Stmt} (hs : s.schedule = [])
    (hb : s.busy = false) (hp : s.program = x :: rest) : step s = hostMove Config.chip.cfg exec s := by
  rw [step_of_turn (turnOf_host hs hb hp), turnUsed_of_no_schedule hs]
  rfl

end Sys2Proof.Machine
end

