-- ==== Sys2Proof/Tests/Slice0.lean ====
section
/-! SUPPORT. Tests: words and vectors of spec/95_test_vectors.md, the checks of a configuration, and for every obligation
with hypotheses a witness `witness_<obligation>` that meets them, one per clause. -/

namespace Sys2Proof.Tests

open Sys2Proof Sys2Proof.Machine

/-! ### The configuration T0 of spec/95_test_vectors.md section 1, and the proof that it is admitted -/

/-- `w ^ rotl(w, k) ^ rotl(w, 2k)`; `mix 1` is T0's L0. -/
def mix (k : Nat) (w : Word) : Word := w ^^^ w.rotateLeft k ^^^ w.rotateLeft (2 * k)

/-- The inverse of L0, as its 15th power. -/
def unmix (w : Word) : Word := (mix 4 (mix 2 (mix 1 w))).rotateLeft 8

def t0 : Configuration where
  defaultRounds := 16
  safeMin := 4
  safeMax := 32
  lbox1 h := mix 1 (h.setWidth 16 <<< 8)
  lbox2 l := mix 1 (l.setWidth 16)
  ilbox1 h := unmix (h.setWidth 16 <<< 8)
  ilbox2 l := unmix (l.setWidth 16)
  sboxCol c := 5 * c + 3
  sboxColInv c := 205 * (c - 3)
  base := 0

theorem rotate_xor (x y : Word) (n : Nat) (h : n < 16) : (x ^^^ y).rotateLeft n = x.rotateLeft n ^^^ y.rotateLeft n := by
  apply BitVec.eq_of_getLsbD_eq
  intro i hi
  by_cases h' : i < n <;> simp [Nat.mod_eq_of_lt h, h', hi]

theorem rotate_rotate (x : Word) (a b : Nat) (ha : a < 16) (hb : b < 16) :
    (x.rotateLeft a).rotateLeft b = x.rotateLeft ((a + b) % 16) := by
  apply BitVec.eq_of_getLsbD_eq
  intro i hi
  have h : (a + b) % 16 < 16 := Nat.mod_lt _ (by decide)
  simp only [BitVec.getLsbD_rotateLeft, Nat.mod_eq_of_lt ha, Nat.mod_eq_of_lt hb, Nat.mod_eq_of_lt h]
  by_cases h1 : i < b <;> by_cases h2 : 16 - b + i < a <;> by_cases h3 : i - b < a <;>
    by_cases h4 : i < (a + b) % 16 <;> simp only [h1, h2, h3, h4, hi, decide_true, decide_false, cond_true, cond_false,
      Bool.true_and] <;>
    first
      | (exfalso; omega)
      | (congr 1; omega)
      | (have h5 : 16 - b + i < 16 := by omega
         simp only [h5, decide_true, Bool.true_and]; congr 1; omega)
      | (have h5 : i - b < 16 := by omega
         simp only [h5, decide_true, Bool.true_and]; congr 1; omega)

theorem xor_nine (a b c d e : Word) : a ^^^ b ^^^ c ^^^ (b ^^^ c ^^^ d) ^^^ (c ^^^ d ^^^ e) = a ^^^ c ^^^ e := by
  apply BitVec.eq_of_getLsbD_eq
  intro i hi
  simp only [BitVec.getLsbD_xor]
  generalize a.getLsbD i = a
  generalize b.getLsbD i = b
  generalize c.getLsbD i = c
  generalize d.getLsbD i = d
  generalize e.getLsbD i = e
  revert a b c d e
  decide

theorem mix1 (x : Word) : mix 1 (mix 1 x) = mix 2 x := by
  simp only [mix, rotate_xor, rotate_rotate, Nat.reduceMul, Nat.reduceLT, Nat.reduceAdd, Nat.reduceMod]
  exact xor_nine ..

theorem mix2 (x : Word) : mix 2 (mix 2 x) = mix 4 x := by
  simp only [mix, rotate_xor, rotate_rotate, Nat.reduceMul, Nat.reduceLT, Nat.reduceAdd, Nat.reduceMod]
  exact xor_nine ..

theorem rotate_zero (x : Word) : x.rotateLeft 0 = x := by
  apply BitVec.eq_of_getLsbD_eq
  intro i hi
  simp [hi]

theorem mix4 (x : Word) : (mix 4 (mix 4 x)).rotateLeft 8 = x := by
  have h : mix 4 (mix 4 x) = x.rotateLeft 8 := by
    simp only [mix, rotate_xor, rotate_rotate, Nat.reduceMul, Nat.reduceLT, Nat.reduceAdd, Nat.reduceMod, rotate_zero]
    rw [xor_nine, BitVec.xor_comm, ← BitVec.xor_assoc, BitVec.xor_self, BitVec.zero_xor]
  rw [h, rotate_rotate _ _ _ (by decide) (by decide), rotate_zero]

theorem mix_xor (k : Nat) (h : k < 8) (x y : Word) : mix k (x ^^^ y) = mix k x ^^^ mix k y := by
  unfold mix
  rw [rotate_xor _ _ _ (by omega), rotate_xor _ _ _ (by omega)]
  ac_rfl

theorem unmix_xor (x y : Word) : unmix (x ^^^ y) = unmix x ^^^ unmix y := by
  unfold unmix
  rw [mix_xor 1 (by decide), mix_xor 2 (by decide), mix_xor 4 (by decide), rotate_xor _ _ 8 (by decide)]

theorem unmix_mix (x : Word) : unmix (mix 1 x) = x := by
  unfold unmix
  rw [mix1, mix2, mix4]

theorem halves (x : Word) : (x.extractLsb' 8 8).setWidth 16 <<< 8 ^^^ (x.extractLsb' 0 8).setWidth 16 = x := by
  apply BitVec.eq_of_getLsbD_eq
  intro i hi
  interval_cases i <;> simp

theorem t0_sbox : t0.SBoxLaw := fun x => by
  show 205#8 * (5#8 * x + 3#8 - 3#8) = x
  rw [BitVec.add_sub_cancel, ← BitVec.mul_assoc]
  exact BitVec.one_mul x

theorem t0_diffusion : t0.DiffusionLaw := fun x => by
  show unmix _ ^^^ unmix _ = x
  rw [← unmix_xor, halves]
  show unmix (mix 1 _ ^^^ mix 1 _) = x
  rw [← mix_xor 1 (by decide), halves, unmix_mix]

/-- T0 is admitted (R5, R157, R163, R222). -/
theorem test_t0_wellFormed : t0.WellFormed := ⟨by decide, by decide, t0_sbox, t0_diffusion⟩

/-! ### Configurations that are not admitted, one for each check (R222) -/

theorem test_default_zero : ¬ { t0 with defaultRounds := 0 }.RoundsLaw := by decide
theorem test_default_256 : ¬ { t0 with defaultRounds := 256, safeMax := 256 }.RoundsLaw := by decide
theorem test_safe_min_zero : ¬ { t0 with safeMin := 0 }.RoundsLaw := by decide
theorem test_safe_max_256 : ¬ { t0 with safeMax := 256 }.RoundsLaw := by decide
theorem test_default_below_safe : ¬ { t0 with safeMin := 17 }.RoundsLaw := by decide
theorem test_default_above_safe : ¬ { t0 with safeMax := 15 }.RoundsLaw := by decide
theorem test_sbox_law : ¬ { t0 with sboxColInv := id }.SBoxLaw := fun h => absurd (h 0) (by decide)
theorem test_diffusion_law : ¬ { t0 with ilbox1 := fun _ => 0 }.DiffusionLaw := fun h => absurd (h 0x0100#16) (by decide)

/-! ### Decoding (R95 to R99; spec/95_test_vectors.md 2.8.1), the words written field by field: RSV1 LEN RND RSV0 OP -/

theorem test_decode_nop : decode 0b00000000_00000000_00000000_0000_0000#32 = .ok .nop := by decide
theorem test_decode_setup : decode 0b00000000_00010000_11111111_0000_0001#32 = .ok (.setup 16 255) := by decide
theorem test_decode_setup_default : decode 0x00100001#32 = .ok (.setup 16 0) := by decide
theorem test_decode_encrypt : decode 0b00000000_00010000_00000000_0000_0010#32 = .ok (.encrypt 16) := by decide
theorem test_decode_encrypt_length : decode 0x000F0002#32 = .ok (.encrypt 15) := by decide
theorem test_decode_decrypt : decode 0b00000000_00010000_00000000_0000_0011#32 = .ok (.decrypt 16) := by decide
theorem test_decode_release : decode 0b00000000_00000000_00000000_0000_0100#32 = .ok .release := by decide
theorem test_decode_nop_len : decode 0x00100000#32 = .error .unusedField := by decide
theorem test_decode_release_rnd : decode 0x00000104#32 = .error .unusedField := by decide
theorem test_decode_encrypt_rnd : decode 0x00100102#32 = .error .unusedField := by decide
theorem test_decode_rsv1 : decode 0x01100002#32 = .error .reservedField := by decide
theorem test_decode_rsv0 : decode 0x00100012#32 = .error .reservedField := by decide
theorem test_decode_op5 : decode 0x00000005#32 = .error .reservedOp := by decide
theorem test_decode_op15 : decode 0x0000000F#32 = .error .reservedOp := by decide
theorem test_decode_ones : decode 0xFFFFFFFF#32 = .error .reservedField := by decide
theorem test_decode_table_short : decodeTableWord 24 0xFF100002 = some (.encrypt 16) := by decide

/-! ### The layers under T0 (spec/95_test_vectors.md 2.1 to 2.4, 2.7) -/

/-- The block s. -/
def s0 : Block := #v[0x0123, 0x4567, 0x89AB, 0xCDEF, 0xFEDC, 0xBA98, 0x7654, 0x3210]

/-- The key K. -/
def k0 : Block := #v[0x0F0E, 0x0D0C, 0x0B0A, 0x0908, 0x0706, 0x0504, 0x0302, 0x0100]

/-- 2.1.1. -/
theorem test_addKey : addKey k0 s0 = #v[0x0E2D, 0x486B, 0x82A1, 0xC4E7, 0xF9DA, 0xBF9C, 0x7556, 0x3310] := by decide

/-- 2.1.5. -/
theorem test_addRC : addRC t0 255 s0 = #v[0xFC21, 0x4567, 0x89AB, 0xCDEF, 0xFEDC, 0xBA98, 0x7654, 0x3210] := by decide

/-- 2.3.4. -/
theorem test_sub : sub t0 s0 = #v[0xFEDC, 0xBBBB, 0xCDEF, 0x89AB, 0x3210, 0xBA98, 0x4567, 0x7654] := by decide

/-- 2.3.6. -/
theorem test_invSub : invSub t0 s0 = #v[0xFEDC, 0x4444, 0x89AB, 0x7777, 0x0123, 0xCCCC, 0x3210, 0xFFFF] := by decide

/-- 2.4.10. -/
theorem test_lin : lin t0 s0 = #v[0x07E9, 0xDA34, 0xBC52, 0x618F, 0xF816, 0x25CB, 0x43AD, 0x9E70] := by decide

/-- 2.4.11. -/
theorem test_invLin : invLin t0 s0 = #v[0x6DD6, 0x1AA1, 0x8338, 0xF44F, 0x9229, 0xE55E, 0x7CC7, 0x0BB0] := by decide

/-- 2.7.2. -/
theorem test_packBytes :
    packBytes #v[0x0E, 0x0F, 0x0C, 0x0D, 0x0A, 0x0B, 0x08, 0x09, 0x06, 0x07, 0x04, 0x05, 0x02, 0x03, 0x00, 0x01] = k0 := by
  decide

/-- 1: the CFG value of T0. -/
theorem test_cfg : cfgValue t0 = 0x20041008#32 := by decide

/-- The zero block and the zero key. -/
def z : Block := .replicate N 0

/-- 2.5.1, one round on the zero block under the zero key, from its trace. -/
theorem test_encryptBlock : encryptBlock t0 z 1 z = #v[0xEAFF, 0xEAFF, 0x0000, 0x1500, 0, 0, 0, 0] := by
  have h1 : addKey z z = z := by decide
  have h2 : addRC t0 1 z = #v[0x0700, 0, 0, 0, 0, 0, 0, 0] := by decide
  have h3 : sub t0 #v[0x0700, 0, 0, 0, 0, 0, 0, 0] = #v[0xF8FF, 0xF8FF, 0x0000, 0x0700, 0, 0, 0, 0] := by decide
  have h4 : lin t0 #v[0xF8FF, 0xF8FF, 0x0000, 0x0700, 0, 0, 0, 0] = #v[0xEAFF, 0xEAFF, 0x0000, 0x1500, 0, 0, 0, 0] := by
    decide
  have h5 : addKey z #v[0xEAFF, 0xEAFF, 0x0000, 0x1500, 0, 0, 0, 0] = #v[0xEAFF, 0xEAFF, 0x0000, 0x1500, 0, 0, 0, 0] := by
    decide
  simp only [encryptBlock, encRounds, encRound, Nat.zero_add, h1, h2, h3, h4, h5]

/-- 2.5.1: and back. -/
theorem test_decryptBlock : decryptBlock t0 z 1 #v[0xEAFF, 0xEAFF, 0x0000, 0x1500, 0, 0, 0, 0] = z := by
  have h1 : addKey z #v[0xEAFF, 0xEAFF, 0x0000, 0x1500, 0, 0, 0, 0] = #v[0xEAFF, 0xEAFF, 0x0000, 0x1500, 0, 0, 0, 0] := by
    decide
  have h2 : invLin t0 #v[0xEAFF, 0xEAFF, 0x0000, 0x1500, 0, 0, 0, 0] = #v[0xF8FF, 0xF8FF, 0x0000, 0x0700, 0, 0, 0, 0] := by
    decide
  have h3 : invSub t0 #v[0xF8FF, 0xF8FF, 0x0000, 0x0700, 0, 0, 0, 0] = #v[0x0700, 0, 0, 0, 0, 0, 0, 0] := by decide
  have h4 : addRC t0 1 #v[0x0700, 0, 0, 0, 0, 0, 0, 0] = z := by decide
  have h5 : addKey z z = z := by decide
  simp only [decryptBlock, decRounds, decRound, Nat.sub_zero, h1, h2, h3, h4, h5]

/-! ### States for the tests and witnesses -/

/-- Reset with KEYIN = K and DATA = s written. -/
def loaded : State :=
  { State.reset with
    data := s0, dataWritten := .replicate N true, keyin := k0, keyinWritten := .replicate N true }

/-- With an instance of `r` rounds. -/
def ready (r : Byte) : State := { loaded with key := k0, rounds := r, keyValid := true }

/-- With an operation at `q`. -/
def running (r : Byte) (q : Seq) : State := { ready r with seq := q }

/-- With the last word of KEYIN and of DATA never written. -/
def lastUnwritten : State :=
  { ready 2 with
    keyinWritten := #v[true, true, true, true, true, true, true, false]
    dataWritten := #v[true, true, true, true, true, true, true, false] }

/-- The next state of an outcome that has one. -/
def after : Result → Option State
  | .next t => some t
  | .fault _ => none
  | .refused _ => none

/-- With a host program. -/
def hosting (s : State) (p : List Stmt) : State := { s with program := p }

/-! ### One step of each command (spec/40_commands.md; spec/95_test_vectors.md 2.8, P1) -/

theorem test_nop_sets_done : execNop State.reset = .next { State.reset with done := true } := rfl
theorem test_nop_busy : execNop (running 2 (.enc 0 .ek0)) = .next { running 2 (.enc 0 .ek0) with err := some .busy } := rfl

/-- P1: after SETUP with rnd = 2, STATUS is 0x0000000E, ROUNDS is 2 and KEY is K. -/
theorem test_setup_warns :
    (after (setup t0 16 2 loaded)).map (fun t => (t.statusValue, t.roundsValue, t.key)) =
      some (0x0000000E#32, 2#32, k0) := by decide

/-- 2.8.6: rnd = 0 is the default 16 and does not warn. -/
theorem test_setup_default :
    (after (setup t0 16 0 loaded)).map (fun t => (t.statusValue, t.roundsValue)) = some (0x00000006#32, 16#32) := by decide

/-- P1: after the ENCRYPT write STATUS is 0x0000000B. -/
theorem test_encrypt_starts :
    (after (execEncrypt 16 { ready 2 with warn := true, done := true })).map (fun t => (t.statusValue, t.seq)) =
      some (0x0000000B#32, .enc 0 .ek0) := by decide

/-- 2.8.3: InvalidLength leaves DATA alone. -/
theorem test_encrypt_length : execEncrypt 15 (ready 2) = .next { ready 2 with err := some .invalidLength } := rfl

theorem test_decrypt_starts :
    (after (execDecrypt 16 (ready 2))).map (fun t => (t.statusValue, t.seq)) = some (0x00000003#32, .dec 0 .dkey) := by decide

/-- 2.8.4: NoKey from STATUS 0 gives 0x00000300. -/
theorem test_decrypt_no_key : (after (execDecrypt 16 loaded)).map State.statusValue = some 0x00000300#32 := by decide

theorem test_release_clears :
    (after (execRelease (ready 2))).map (fun t => (t.key, t.statusValue, t.data)) = some (z, 0x00000004#32, s0) := by decide

theorem test_release_again : execRelease State.reset = .next { State.reset with done := true } := rfl

/-! ### One access and one engine step (spec/95_test_vectors.md 2.5, 2.8) -/

/-- 2.8.4: then IllegalCommand gives 0x00000310. -/
theorem test_second_error : ({ State.reset with err := some Error.noKey }.raise .illegalCommand).statusValue = 0x00000310#32 := by
  decide

/-- 2.8.5. -/
theorem test_status_write :
    ({ ready 2 with done := true, warn := true, errovf := true, err := some Error.noKey }.writeStatus
      0xFFFFFFFF#32).statusValue = 0x00000002#32 := by decide

/-- 2.8.7: each access gives no value and records its fault; and the fault a read of DATA0 after reset records. -/
theorem test_bus_faults :
    busRead t0 .w32 0x10#8 (ready 2) = (none, { ready 2 with fault := some (.busFault .unmapped) }) ∧
      busRead t0 .w32 0xA0#8 (ready 2) = (none, { ready 2 with fault := some (.busFault .unmapped) }) ∧
      busWrite exec .w32 0x81#8 0#32 (ready 2) = .next { ready 2 with fault := some (.busFault .misaligned) } ∧
      busRead t0 .w16 0x80#8 (ready 2) = (none, { ready 2 with fault := some (.busFault .width) }) ∧
      (busRead t0 .w32 0x80#8 State.reset).2.fault = some .unwrittenRead := ⟨rfl, rfl, rfl, rfl, rfl⟩

/-- R197: an access outside the map while BUSY does not stop the engine, whose next step is its own. -/
theorem test_bus_fault_while_busy :
    (after (step { hosting (running 1 (.enc 0 .ekey)) [.write .w8 0x80#8 0#32] with schedule := [.host] })).map
        (fun t => (t.fault, (after (step t)).map fun u => (u.busy, u.done, u.fault))) =
      some (some (.busFault .width), some (false, true, some (.busFault .width))) := rfl

/-- R21: the first engine step of an operation sets every mark of DATA, which its acceptance did not. -/
theorem test_engine_sets_marks :
    (after (execEncrypt 16 lastUnwritten)).map
        (fun t => (t.dataWritten[7], (engineStep t0 t).dataWritten)) = some (false, .replicate N true) := rfl

/-- P6: SETUP with KEYIN7 unwritten is accepted and records UnwrittenRead; and a check that fails first records none. -/
theorem test_setup_unwritten :
    (after (setup t0 16 0 lastUnwritten)).map (fun t => (t.fault, t.key[6], t.statusValue)) =
        some (some .unwrittenRead, 0x0302#16, 0x00000006#32) ∧
      (after (setup t0 15 0 lastUnwritten)).map (fun t => (t.fault, t.statusValue)) = some (none, 0x00000102#32) :=
  ⟨rfl, rfl⟩

/-- 2.5.1, step 5: the last engine step of R = 1 completes, with DONE set. -/
theorem test_engine_completes :
    engineStep t0 (running 1 (.enc 0 .ekey)) = { ready 1 with data := addKey k0 s0, done := true } := by decide

/-- 2.5.2, step 4 of a decryption: AddRC of index 2 at Run(Dec, 0, DRC) with R = 2, and then Run(Dec, 1, DKEY). -/
theorem test_engine_index :
    constantIndex 2 (.dec 0 .drc) = some 2 ∧ nextSeq 2 (.dec 0 .drc) = .dec 1 .dkey ∧
      nextSeq 2 (.dec 1 .drc) = .dec 2 .dkf ∧ nextSeq 2 (.enc 0 .ekey) = .enc 1 .erc := by decide

/-- The first step after placing a word runs it, whatever the table's width. -/
theorem test_placed_command : step (State.reset.withFetchWord 32 0) = .next { State.reset with done := true } := rfl

/-! ### Witnesses for the hypotheses of the obligations, a state and operands for each clause -/

/-- An idle block whose host writes `v` to CMD next. -/
def issuing (s : State) (v : BusWord) : State := hosting s [.write .w32 cmdOffset v]

theorem witness_DecodeInvertsEncode :
    (Instr.setup 255 255).wellFormed = true ∧ decode 0x00FFFF01#32 = .ok (.setup 255 255) ∧
      encode (.setup 255 255) = 0x00FFFF01#32 ∧ decode 0x00100102#32 ≠ .ok (.encrypt 16) := by decide

theorem witness_DecodingIsByMaskAndMatch :
    (∃ r ∈ opcodeRows, 0x00FFFF01#32 &&& r.mask = r.pattern) ∧
      (∀ r ∈ opcodeRows, 0x00000005#32 &&& r.mask ≠ r.pattern) ∧ State.reset.busy = false := by decide

/-- One word for each clause: RSV0, RSV1, OP 5 and 15, RND outside SETUP, LEN with NOP and RELEASE; and a command. -/
theorem witness_IllegalWordsAreExactlyThese :
    State.reset.busy = false ∧ rsv0Field 0x10#32 ≠ 0 ∧ rsv1Field 0x01000000#32 ≠ 0 ∧
      5 ≤ (opField 0x5#32).toNat ∧ 5 ≤ (opField 0xF#32).toNat ∧
      ((opField 0x102#32).toNat ≠ 1 ∧ rndField 0x102#32 ≠ 0) ∧
      ((opField 0x10000#32).toNat = 0 ∧ lenField 0x10000#32 ≠ 0) ∧
      ((opField 0x10004#32).toNat = 4 ∧ lenField 0x10004#32 ≠ 0) ∧
      ¬ (rsv0Field 0x00FFFF01#32 ≠ 0 ∨ rsv1Field 0x00FFFF01#32 ≠ 0 ∨ 5 ≤ (opField 0x00FFFF01#32).toNat ∨
        ((opField 0x00FFFF01#32).toNat ≠ 1 ∧ rndField 0x00FFFF01#32 ≠ 0)) := by decide

theorem witness_NopOnlySetsDone :
    State.reset.busy = false ∧ (running 2 (.enc 0 .ek0)).busy = true ∧ opField 0xFFFFFFF0#32 = 0 ∧
      0xFFFFFFF0#32 ≠ 0#32 := by decide

theorem witness_SetupInstallsTheInstance :
    (running 255 (.dec 255 .dkf)).busy = true ∧ State.reset.busy = false ∧ (15 : Byte).toNat ≠ 2 * N ∧
      (17 : Byte).toNat ≠ 2 * N ∧ (16 : Byte).toNat = 2 * N ∧ (∃ w : Fin N, State.reset.keyinWritten[w] = false) ∧
      (∃ w : Fin N, lastUnwritten.keyinWritten[w] = false) ∧ (∃ w : Fin N, lastUnwritten.keyinWritten[w] = true) ∧
      lastUnwritten.busy = false ∧ loaded.busy = false ∧ (∀ w : Fin N, loaded.keyinWritten[w] = true) ∧ opField 0x80000001#32 = 1 ∧
      rsv1Field 0x80000001#32 ≠ 0 ∧ opField 0x00000011#32 = 1 ∧ rsv0Field 0x00000011#32 ≠ 0 := by decide

theorem witness_SetupRoundCountInRange :
    loaded.busy = false ∧ (16 : Byte).toNat = 2 * N ∧
      ∀ rnd : Byte, ∃ t, exec (.setup 16 rnd) loaded = .next t := ⟨by decide, by decide, fun _ => ⟨_, rfl⟩⟩

theorem witness_OperationsStart :
    (running 1 (.enc 0 .ek0)).busy = true ∧ loaded.busy = false ∧ loaded.keyValid = false ∧
      (15 : Byte).toNat ≠ 2 * N ∧ (16 : Byte).toNat = 2 * N ∧ (ready 255).busy = false ∧ (ready 255).keyValid = true ∧
      (∀ w : Fin N, (ready 255).dataWritten[w] = true) ∧
      lastUnwritten.busy = false ∧ lastUnwritten.keyValid = true ∧
      (∃ w : Fin N, lastUnwritten.dataWritten[w] = false) ∧ ∃ w : Fin N, lastUnwritten.dataWritten[w] = true := by decide

theorem witness_ReleaseDestroysTheInstance :
    (ready 2).busy = false ∧ State.reset.busy = false ∧ (16 : Byte).toNat = 2 * N ∧
      (running 2 (.enc 0 .ek0)).busy = true ∧ opField 0x00010004#32 = 4 ∧ 0x00010004#32 ≠ 4#32 := by decide

theorem witness_ReleaseDestroysTheInstance_next :
    ∃ t, exec .release (ready 2) = .next t ∧ State.reset.keyValid = t.keyValid := ⟨_, rfl, rfl⟩

/-- A word for each outcome of R214: Busy, IllegalCommand, InvalidLength, NoKey, an unwritten word of each file, and acceptance. -/
theorem witness_AcceptanceChecksInOrder :
    (running 2 (.enc 0 .ek0)).busy = true ∧ loaded.busy = false ∧ decode 0x00000005#32 = .error .reservedOp ∧
      decode 0x000F0002#32 = .ok (.encrypt 15) ∧ (15 : Byte).toNat ≠ 2 * N ∧
      decode 0x00100003#32 = .ok (.decrypt 16) ∧ (16 : Byte).toNat = 2 * N ∧ loaded.keyValid = false ∧
      decode 0x00100001#32 = .ok (.setup 16 0) ∧ (∃ w : Fin N, State.reset.keyinWritten[w] = false) ∧
      (∃ w : Fin N, lastUnwritten.dataWritten[w] = false) ∧ lastUnwritten.keyValid = true ∧
      decode 0x00000004#32 = .ok .release := by decide

/-- A dropped CMD write that sets ERR, one that sets ERROVF, and a dropped DATA write to the last word. -/
theorem witness_DroppedWritesChangeOnlyErr :
    (∃ t, busWrite exec .w32 cmdOffset 0x00000005#32 State.reset = .next t ∧ t.err ≠ State.reset.err) ∧
      (∃ t, busWrite exec .w32 cmdOffset 0x00000005#32 { State.reset with err := some .noKey } = .next t ∧
        t.errovf ≠ State.reset.errovf) ∧
      dataOffset (7 : Fin N) = 0x9C#8 ∧
      ∃ t, busWrite exec .w32 (dataOffset (7 : Fin N)) 1#32 (running 2 (.enc 0 .ek0)) = .next t ∧
        t.err ≠ (running 2 (.enc 0 .ek0)).err :=
  ⟨⟨_, rfl, by decide⟩, ⟨_, rfl, by decide⟩, by decide, ⟨_, rfl, by decide⟩⟩

/-- Each command with its buffers written, and with a word of each that was not. -/
theorem witness_CommandsLeaveTheBuffersAlone :
    (∃ t, exec (.setup 16 0) lastUnwritten = .next t ∧ t.fault = some .unwrittenRead) ∧
      (∃ t, exec (.encrypt 16) lastUnwritten = .next t ∧ t.fault = some .unwrittenRead) ∧
      (∃ w : Fin N, lastUnwritten.dataWritten[w] = true) ∧
      (∃ t, exec .nop State.reset = .next t) ∧ (∃ t, exec (.setup 16 0) loaded = .next t) ∧
      (∃ t, exec (.encrypt 16) (ready 1) = .next t) ∧ (∃ t, exec (.decrypt 16) (ready 255) = .next t) ∧
      ∃ t, exec .release (ready 1) = .next t :=
  ⟨⟨_, rfl, rfl⟩, ⟨_, rfl, rfl⟩, ⟨0, rfl⟩, ⟨_, rfl⟩, ⟨_, rfl⟩, ⟨_, rfl⟩, ⟨_, rfl⟩, ⟨_, rfl⟩⟩

theorem witness_RaiseRecordsTheFirstCode :
    State.reset.statusValue.extractLsb' 8 4 = 0#4 ∧
      { State.reset with err := some .busy }.statusValue.extractLsb' 8 4 ≠ 0#4 ∧ (12 : Nat) ≠ 4 := by decide

/-- A configuration at the bounds of its ranges. -/
theorem witness_CfgReportsTheConfiguration :
    t0.WellFormed ∧ { t0 with defaultRounds := 255, safeMin := 1, safeMax := 255 }.WellFormed :=
  ⟨test_t0_wellFormed, by decide, by decide, t0_sbox, t0_diffusion⟩

theorem witness_BusReadReturns :
    (∃ w : Fin N, loaded.keyinWritten[w] = true) ∧ (∃ w : Fin N, State.reset.keyinWritten[w] ≠ true) ∧
      (running 2 (.enc 0 .ek0)).busy = true ∧ loaded.busy = false ∧ (∃ w : Fin N, loaded.dataWritten[w] = true) ∧
      ∃ w : Fin N, State.reset.dataWritten[w] ≠ true := by decide

theorem witness_BusWriteSetsOneWord : (running 2 (.enc 0 .ek0)).busy = true ∧ State.reset.busy = false := by decide

theorem witness_WrittenWordReadsBack :
    (∃ t, busWrite exec .w32 (keyinOffset (0 : Fin N)) 0xFFFF1234#32 (running 2 (.enc 0 .ek0)) = .next t) ∧
      State.reset.busy = false ∧
      (∃ t, busWrite exec .w32 (dataOffset (7 : Fin N)) 0xFFFF1234#32 State.reset = .next t) ∧ (0 : Fin N) ≠ 7 ∧
      ∃ x t, busRead t0 .w32 (dataOffset (7 : Fin N)) (running 2 (.enc 0 .ek0)) = (some x, t) :=
  ⟨⟨_, rfl⟩, by decide, ⟨_, rfl⟩, by decide, ⟨_, _, rfl⟩⟩

/-- The offsets where the clauses meet: the last and first mapped ones beside each hole of the map. -/
theorem witness_BusFaultsInOrder :
    Width.w8 ≠ .w32 ∧ Width.w64 ≠ .w32 ∧ (0x9D#8).toNat % 4 ≠ 0 ∧
      State.reset.fault ≠ some (.busFault .width) ∧ regAt 0x0C#8 = some .rounds ∧ regAt 0x10#8 = none ∧ regAt 0x3C#8 = none ∧ regAt 0x40#8 = some (.keyin 0) ∧
      regAt 0x5C#8 = some (.keyin 7) ∧ regAt 0x60#8 = none ∧ regAt 0x7C#8 = none ∧ regAt 0x80#8 = some (.data 0) ∧
      regAt 0x9C#8 = some (.data 7) ∧ regAt 0xA0#8 = none ∧ regAt 0xFC#8 = none := by decide

theorem witness_RegisterMapExact : (0x9C#8).toNat % 4 = 0 ∧ (0xFC#8).toNat % 4 = 0 := by decide

theorem witness_WindowIsBasePlusOffset :
    windowOffset t0 0 = some 0 ∧ windowOffset t0 255 = some 255 ∧ windowOffset t0 256 = none := by decide

theorem witness_AddRCTouchesWordZero : t0.lbox1 0 = 0 ∧ (7 : Fin N).val ≠ 0 := by decide

theorem witness_SubstitutionInverse : t0.WellFormed := test_t0_wellFormed

theorem witness_DiffusionInverse : t0.WellFormed := test_t0_wellFormed

theorem setWidth_xor (a b : Byte) : (a ^^^ b).setWidth 16 = a.setWidth 16 ^^^ b.setWidth 16 := by
  apply BitVec.eq_of_getLsbD_eq
  intro i hi
  by_cases h : i < 8 <;> simp [hi]

theorem witness_LinearTablesGiveLinearDiffusion :
    (∀ a b : Byte, t0.lbox1 (a ^^^ b) = t0.lbox1 a ^^^ t0.lbox1 b) ∧
      ∀ a b : Byte, t0.lbox2 (a ^^^ b) = t0.lbox2 a ^^^ t0.lbox2 b := by
  constructor <;> intro a b
  · show mix 1 _ = mix 1 _ ^^^ mix 1 _
    rw [← mix_xor 1 (by decide), ← BitVec.shiftLeft_xor_distrib, setWidth_xor]
  · show mix 1 _ = mix 1 _ ^^^ mix 1 _
    rw [← mix_xor 1 (by decide), setWidth_xor]

theorem witness_DecryptionInvertsEncryption :
    t0.WellFormed ∧ 1 ≤ 1 ∧ 1 ≤ 255 ∧ 255 ≤ 255 := ⟨test_t0_wellFormed, by decide, by decide, by decide⟩

theorem witness_EngineAppliesTheLayersInOrder :
    1 ≤ (running 1 (.enc 0 .ek0)).rounds.toNat ∧ (running 1 (.enc 0 .ek0)).seq = .enc 0 .ek0 ∧
      1 ≤ (running 255 (.dec 0 .dkey)).rounds.toNat ∧ (running 255 (.dec 0 .dkey)).seq = .dec 0 .dkey := by decide

theorem witness_ConstantIndexSequences :
    1 ≤ (running 255 (.enc 0 .ek0)).rounds.toNat ∧ (running 255 (.enc 0 .ek0)).seq = .enc 0 .ek0 ∧
      1 ≤ (running 1 (.dec 0 .dkey)).rounds.toNat ∧ (running 1 (.dec 0 .dkey)).seq = .dec 0 .dkey := by decide

theorem witness_EngineComputesEncryption :
    (running 255 (.enc 0 .ek0)).seq = .enc 0 .ek0 ∧ 1 ≤ (running 255 (.enc 0 .ek0)).rounds.toNat ∧
      0 < 4 * (running 255 (.enc 0 .ek0)).rounds.toNat + 1 := by decide

theorem witness_EngineComputesDecryption :
    (running 1 (.dec 0 .dkey)).seq = .dec 0 .dkey ∧ 1 ≤ (running 1 (.dec 0 .dkey)).rounds.toNat ∧
      4 < 4 * (running 1 (.dec 0 .dkey)).rounds.toNat + 1 := by decide

/-- A step that completes, an idle engine, and two states that differ in what the engine does not read. -/
theorem witness_EngineReadsAndWrites :
    (engineStep t0 (running 1 (.dec 1 .dkf))).done ≠ (running 1 (.dec 1 .dkf)).done ∧ loaded.busy = false ∧
      (running 1 (.enc 0 .erc)).seq = { running 1 (.enc 0 .erc) with keyin := z, warn := true }.seq ∧
      running 1 (.enc 0 .erc) ≠ { running 1 (.enc 0 .erc) with keyin := z, warn := true } ∧
      { running 1 (.dec 1 .dkf) with fault := some (.busFault .width) }.busy = true ∧
      turnOf { running 1 (.dec 1 .dkf) with fault := some (.busFault .width) } = some .engine := by decide

theorem witness_CommandsTransformTheBlock :
    lastUnwritten.busy = false ∧ lastUnwritten.keyValid = true ∧ 1 ≤ lastUnwritten.rounds.toNat ∧
      (∃ w : Fin N, lastUnwritten.dataWritten[w] = true) ∧ (ready 255).busy = false ∧ (16 : Byte).toNat = 2 * N ∧ (ready 255).keyValid = true ∧
      (∀ w : Fin N, (ready 255).dataWritten[w] = true) ∧ 1 ≤ (ready 255).rounds.toNat := by decide

theorem witness_DecryptUndoesEncryptOnTheChip :
    lastUnwritten.busy = false ∧ lastUnwritten.keyValid = true ∧ 1 ≤ lastUnwritten.rounds.toNat ∧ (ready 1).busy = false ∧ (16 : Byte).toNat = 2 * N ∧ (ready 1).keyValid = true ∧
      (∀ w : Fin N, (ready 1).dataWritten[w] = true) ∧ 1 ≤ (ready 1).rounds.toNat := by decide

/-- Two states that differ in KEYIN and the flags, with the same block and instance. -/
theorem witness_EqualInputsGiveEqualResults :
    (ready 2).busy = false ∧ { ready 2 with keyin := z, warn := true }.busy = false ∧ (ready 2).keyValid = true ∧
      { ready 2 with keyin := z, warn := true }.keyValid = true ∧ (16 : Byte).toNat = 2 * N ∧
      (ready 2).data = { ready 2 with keyin := z, warn := true }.data ∧
      (∀ w : Fin N, (ready 2).dataWritten[w] = true ∧ { ready 2 with keyin := z, warn := true }.dataWritten[w] = true) ∧
      ready 2 ≠ { ready 2 with keyin := z, warn := true } := by decide

/-- And two with a word that was never written and the same DATA at acceptance. -/
theorem witness_EqualInputsGiveEqualResults_next :
    (∃ t, exec (.encrypt 16) (ready 2) = .next t) ∧
      (∃ t, exec (.encrypt 16) { ready 2 with keyin := z, warn := true } = .next t) ∧
      ∃ t u, exec (.decrypt 16) lastUnwritten = .next t ∧
        exec (.decrypt 16) { lastUnwritten with keyin := z, warn := true } = .next u ∧ t.data = u.data :=
  ⟨⟨_, rfl⟩, ⟨_, rfl⟩, ⟨_, _, rfl, rfl, rfl⟩⟩

theorem witness_LoadingABlockAndAKey :
    State.reset.busy = false ∧ State.reset.schedule = [] ∧
      (hosting State.reset (loadBlock (.replicate blockBytes 0xFF) ++ [.poll 0])).program =
        loadBlock (.replicate blockBytes 0xFF) ++ [.poll 0] ∧
      (hosting State.reset (loadKey (.replicate blockBytes 0xFF))).program =
        loadKey (.replicate blockBytes 0xFF) ++ [] ∧
      (hosting loaded (storeBlock 3)).busy = false ∧
      (hosting loaded (storeBlock 3)).schedule = [] ∧
      (∀ w : Fin N, (hosting loaded (storeBlock 3)).dataWritten[w] = true) ∧
      (hosting loaded (storeBlock 3)).program = storeBlock 3 ++ [] ∧
      ¬ (∀ w : Fin N, (hosting lastUnwritten (storeBlock 3)).dataWritten[w] = true) ∧
      ∃ w : Fin N, lastUnwritten.dataWritten[w] = true := by decide

/-- An operation of 255 rounds or of 1 with a POLL next, under a schedule that lets the host read STATUS while BUSY. -/
def polling (r : Byte) (q : Seq) : State :=
  { hosting (running r q) [.poll 0] with schedule := [.host, .engine, .host] }

theorem witness_PollWaitsForTheResult :
    turnOf (polling 255 (.enc 0 .ek0)) = some .host ∧
      (polling 255 (.enc 0 .ek0)).program = [.poll 0] ∧ (polling 255 (.enc 0 .ek0)).busy = true ∧
      Turn.reset ∉ (polling 255 (.enc 0 .ek0)).schedule ∧ 1 ≤ (polling 255 (.enc 0 .ek0)).rounds.toNat ∧
      (polling 255 (.enc 0 .ek0)).seq = .enc 0 .ek0 ∧
      Turn.reset ∉ (polling 1 (.dec 0 .dkey)).schedule ∧ 1 ≤ (polling 1 (.dec 0 .dkey)).rounds.toNat ∧
      (polling 1 (.dec 0 .dkey)).program = [.poll 0] ∧ (polling 1 (.dec 0 .dkey)).seq = .dec 0 .dkey ∧
      turnOf (hosting (ready 1) [.poll 0]) = some .host ∧ (hosting (ready 1) [.poll 0]).busy = false := by decide

/-- A POLL that finds BUSY = 1 stays, and one that finds it 0 ends (R100). -/
theorem test_poll :
    (after (step (polling 2 (.enc 0 .ek0)))).map (fun t => (t.program, t.var 0)) =
        some ([.poll 0], some 0x00000003#32) ∧
      (after (step (hosting (ready 2) [.poll 0]))).map (fun t => (t.program, t.var 0)) =
        some ([], some 0x00000002#32) := by decide

/-- A RD of the last DATA word (R64, R100). -/
theorem test_rd :
    (after (step (hosting (ready 2) [rd (.data 7) 4]))).map (fun t => (t.program, t.var 4)) =
      some ([], some 0x00003210#32) := by decide

theorem witness_StepRunsTheDecodedCommand :
    turnOf (issuing (ready 2) 0x00100002#32) = some .host ∧
      (issuing (ready 2) 0x00100002#32).program = [.write .w32 cmdOffset 0x00100002#32] ∧
      decode 0x00100002#32 = .ok (.encrypt 16) ∧
      decode 0x00000000#32 = .ok .nop := by decide

theorem witness_ResetLeavesTheResetState :
    { running 2 (.enc 1 .esub) with schedule := [.reset, .host], fault := some (.busFault .width) }.schedule =
      [.reset, .host] := rfl

theorem witness_StepKeepsLegal :
    Legal { running 255 (.dec 0 .dkey) with dataWritten := .replicate N false } ∧
      Legal (running 255 (.dec 255 .dkf)) ∧ Legal (issuing (ready 1) 0x00000004#32) ∧
      ∃ t, step (running 255 (.dec 255 .dkf)) = .next t := ⟨by decide, by decide, by decide, ⟨_, rfl⟩⟩

/-- An ENCRYPT accepted, the engine's last step, and a reset during an operation. -/
theorem witness_BusyChangesOnlyBy :
    (∃ t, step (issuing (ready 2) 0x00100002#32) = .next t ∧ (issuing (ready 2) 0x00100002#32).busy = false ∧
        t.busy = true) ∧
      (∃ t, step (running 1 (.enc 0 .ekey)) = .next t ∧ (running 1 (.enc 0 .ekey)).busy = true ∧ t.busy = false) ∧
      ∃ t, step { running 1 (.enc 0 .ek0) with schedule := [.reset] } = .next t ∧ t.busy = false :=
  ⟨⟨_, rfl, by decide, rfl⟩, ⟨_, rfl, by decide, rfl⟩, ⟨_, rfl, rfl⟩⟩

theorem witness_InstanceChangesOnlyBy :
    (∃ t, step (issuing (ready 2) 0x00000004#32) = .next t ∧ t.keyValid ≠ (ready 2).keyValid) ∧
      (∃ t, step (issuing loaded 0x00100201#32) = .next t ∧ t.rounds ≠ loaded.rounds) ∧
      ∃ t, step { running 1 (.enc 0 .ek0) with schedule := [.reset] } = .next t ∧ t.key ≠ k0 :=
  ⟨⟨_, rfl, nofun⟩, ⟨_, rfl, by decide⟩, ⟨_, rfl, by decide⟩⟩

/-- A SETUP of 2 rounds under T0, whose safe range starts at 4, and a STATUS write that clears WARN. -/
theorem witness_WarnChangesOnlyBy :
    (∃ t, stepUnder t0 (issuing loaded 0x00100201#32) = .next t ∧ loaded.warn = false ∧ t.warn = true) ∧
      ∃ t, stepUnder t0 (hosting { ready 2 with warn := true } [.write .w32 statusOffset 0x8#32]) = .next t ∧
        t.warn = false :=
  ⟨⟨_, if_pos test_t0_wellFormed, rfl, rfl⟩, ⟨_, if_pos test_t0_wellFormed, rfl⟩⟩

/-- 2.8.6: the counts where the clauses of WARN meet. -/
theorem test_warns : warnsOf t0 3 = true ∧ warnsOf t0 4 = false ∧ warnsOf t0 32 = false ∧
    warnsOf t0 33 = true ∧ warnsOf t0 0 = false := by decide

theorem witness_DoneChangesOnlyBy :
    (∃ t, step (issuing State.reset 0#32) = .next t ∧ State.reset.done = false ∧ t.done = true) ∧
      (∃ t, step (running 1 (.dec 1 .dkf)) = .next t ∧ (running 1 (.dec 1 .dkf)).done = false ∧ t.done = true) ∧
      (∃ t, step (issuing { ready 2 with done := true } 0x00100003#32) = .next t ∧ t.done = false) ∧
      ∃ t, step (hosting { ready 2 with done := true } [.write .w32 statusOffset 0x4#32]) = .next t ∧
        t.done = false := ⟨⟨_, rfl, by decide, rfl⟩, ⟨_, rfl, by decide, rfl⟩, ⟨_, rfl, rfl⟩, ⟨_, rfl, rfl⟩⟩

/-- A host write to KEYIN during an operation. -/
theorem witness_HostCannotDisturbAnOperation :
    { hosting (running 2 (.enc 0 .elin)) [.write .w32 (keyinOffset 0) 1#32] with schedule := [.host] }.busy = true ∧
      turnOf { hosting (running 2 (.enc 0 .elin)) [.write .w32 (keyinOffset 0) 1#32] with schedule := [.host] } =
        some .host := by decide

theorem witness_HostCannotDisturbAnOperation_next :
    ∃ t, step { hosting (running 2 (.enc 0 .elin)) [.write .w32 (keyinOffset 0) 1#32] with schedule := [.host] } =
      .next t := ⟨_, rfl⟩

theorem witness_EveryOperationCompletes :
    Legal (running 255 (.enc 0 .ek0)) ∧
      (running 255 (.enc 0 .ek0)).schedule = [] ∧ (running 255 (.enc 0 .ek0)).busy = true ∧
      Legal (running 1 (.dec 1 .dkf)) ∧ (running 1 (.dec 1 .dkf)).busy = true := by decide

/-- A BusFault of a write and of a read; and UnwrittenRead recorded by a read of each file and by each command that consumes
one. -/
theorem witness_StepFaultsOnlyAs :
    (∃ t, step (hosting State.reset [.write .w32 0xA0#8 0#32]) = .next t ∧ t.fault = some (.busFault .unmapped)) ∧
      (∃ t, step (hosting State.reset [.read .w64 0x00#8 0]) = .next t ∧ t.fault = some (.busFault .width)) ∧
      (∃ t, step (hosting State.reset [.read .w32 (keyinOffset 0) 0]) = .next t ∧ t.fault ≠ none) ∧
      (∃ t, step (hosting State.reset [.read .w32 (dataOffset 7) 0]) = .next t ∧ t.fault ≠ none) ∧
      (∃ t, step (issuing State.reset 0x00100001#32) = .next t ∧ t.fault ≠ none) ∧
      ∃ t, step (issuing lastUnwritten 0x00100002#32) = .next t ∧ t.fault ≠ none :=
  ⟨⟨_, rfl, rfl⟩, ⟨_, rfl, rfl⟩, ⟨_, rfl, nofun⟩, ⟨_, rfl, nofun⟩, ⟨_, rfl, nofun⟩, ⟨_, rfl, nofun⟩⟩

theorem witness_FaultIsNeverCleared :
    { State.reset with fault := some FaultMark.unwrittenRead, schedule := [.reset] }.fault = some .unwrittenRead ∧
      { State.reset with fault := some (FaultMark.busFault .width) }.fault = some (.busFault .width) := by decide

/-- T0 with each of its parts made wrong, one for each clause. -/
theorem witness_IllFormedConfigurationsAreRefused :
    { t0 with defaultRounds := 0 }.defaultRounds = 0 ∧ 255 < { t0 with defaultRounds := 256 }.defaultRounds ∧
      { t0 with safeMin := 0 }.safeMin = 0 ∧ 255 < { t0 with safeMin := 256 }.safeMin ∧
      { t0 with safeMax := 0 }.safeMax = 0 ∧ 255 < { t0 with safeMax := 256 }.safeMax ∧
      { t0 with safeMin := 17 }.defaultRounds < { t0 with safeMin := 17 }.safeMin ∧
      { t0 with safeMax := 15 }.safeMax < { t0 with safeMax := 15 }.defaultRounds ∧
      { t0 with sboxColInv := id }.sboxColInv ({ t0 with sboxColInv := id }.sboxCol 0) ≠ 0 ∧
      invLinWord { t0 with ilbox1 := fun _ => 0 } (linWord { t0 with ilbox1 := fun _ => 0 } 0x0100#16) ≠ 0x0100#16 := by
  decide

theorem witness_NobodyMovesAndEndIsObserved :
    turnOf (ready 2) = none ∧ (ready 2).fault = none ∧ runEnded (ready 2) ∧ runEnded State.reset ∧
      (running 2 (.enc 0 .ek0)).busy = true ∧ (hosting (ready 2) [.poll 0]).program ≠ [] ∧
      { ready 2 with fault := some FaultMark.unwrittenRead }.fault ≠ none ∧
      turnOf { ready 2 with fault := some FaultMark.unwrittenRead } = none := by decide

/-- A WR, a RD that returns a value and a RD that does not, each on the host's turn. -/
theorem witness_HostRunsOneStatement :
    turnOf (hosting State.reset [wr .status 1#32]) = some .host ∧
      (hosting State.reset [wr .status 1#32]).program = [.write .w32 statusOffset 1#32] ∧
      turnOf (hosting State.reset [rd .status 0]) = some .host ∧
      (hosting State.reset [rd .status 0]).program = [.read .w32 statusOffset 0] := by decide

theorem witness_HostRunsOneStatement_read :
    (∃ x u, busRead Config.chip.cfg .w32 statusOffset (hosting State.reset [rd .status 0]) = (some x, u)) ∧
      turnOf (hosting State.reset [rd (.data 8) 0]) = some .host ∧
      (busRead Config.chip.cfg .w32 (RegName.data 8).offset (hosting State.reset [rd (.data 8) 0])).1 = none :=
  ⟨⟨_, _, rfl⟩, rfl, rfl⟩

end Sys2Proof.Tests
end

section
/-! What a step does to the block: it keeps the block, writes one register, is a running engine's step, or is a reset.
The invariant and the flags are read off these four cases. -/

namespace Sys2Proof.Machine

variable {c : Configuration} {s t : State}

/-! ### The block of a state -/

/-- The block's own state (spec/10_state.md): the host's fields, the fault field and the model's own fields blanked. -/
def State.block (s : State) : State :=
  { s with program := [], vars := [], schedule := [], fault := none, draws := 0 }

@[simp] theorem State.turnUsed_block (s : State) : s.turnUsed.block = s.block := rfl
@[simp] theorem State.withProgram_block (s : State) (p : List Stmt) : (s.withProgram p).block = s.block := rfl
@[simp] theorem State.setVar_block (s : State) (n : Nat) (v : BusWord) : (s.setVar n v).block = s.block := rfl
@[simp] theorem State.receive_block (s : State) (n : Nat) (v : Option BusWord) : (s.receive n v).block = s.block := by
  cases v <;> rfl
@[simp] theorem State.markFault_block (s : State) (f : FaultMark) : (s.markFault f).block = s.block := by
  rw [markFault_eq]
  rfl
@[simp] theorem busRead_block (c : Configuration) (width : Width) (off : Byte) (s : State) :
    (busRead c width off s).2.block = s.block := by
  rw [busRead_frame]
  rfl

theorem key_of_block (h : t.block = s.block) : t.key = s.key := (congrArg State.key h :)
theorem rounds_of_block (h : t.block = s.block) : t.rounds = s.rounds := (congrArg State.rounds h :)
theorem keyValid_of_block (h : t.block = s.block) : t.keyValid = s.keyValid := (congrArg State.keyValid h :)
theorem dataWritten_of_block (h : t.block = s.block) : t.dataWritten = s.dataWritten := (congrArg State.dataWritten h :)
theorem done_of_block (h : t.block = s.block) : t.done = s.done := (congrArg State.done h :)
theorem warn_of_block (h : t.block = s.block) : t.warn = s.warn := (congrArg State.warn h :)
theorem seq_of_block (h : t.block = s.block) : t.seq = s.seq := (congrArg State.seq h :)
theorem busy_of_block (h : t.block = s.block) : t.busy = s.busy := (congrArg State.busy h :)

@[simp] theorem busRead_vars (c : Configuration) (width : Width) (off : Byte) (s : State) :
    (busRead c width off s).2.vars = s.vars := by
  rw [busRead_frame]

theorem varsLegal_of_vars (h : t.vars = s.vars) (hs : VarsLegal s) : VarsLegal t := by
  rw [VarsLegal, h]
  exact hs

/-- Receiving a value keeps the numbers of the host variables rising. -/
theorem receive_varsLegal (n : Nat) (v : Option BusWord) (h : VarsLegal s) : VarsLegal (s.receive n v) := by
  cases v with
  | none => exact h
  | some x => exact assign_rising n x s.vars h

/-! ### The engine's step, field by field -/

@[simp] theorem engineStep_key (c : Configuration) (s : State) : (engineStep c s).key = s.key := by
  unfold engineStep; split <;> rfl
@[simp] theorem engineStep_rounds (c : Configuration) (s : State) : (engineStep c s).rounds = s.rounds := by
  unfold engineStep; split <;> rfl
@[simp] theorem engineStep_keyValid (c : Configuration) (s : State) : (engineStep c s).keyValid = s.keyValid := by
  unfold engineStep; split <;> rfl
@[simp] theorem engineStep_warn (c : Configuration) (s : State) : (engineStep c s).warn = s.warn := by
  unfold engineStep; split <;> rfl
@[simp] theorem engineStep_vars (c : Configuration) (s : State) : (engineStep c s).vars = s.vars := by
  unfold engineStep; split <;> rfl

/-- A running engine sets DONE exactly where its step leaves the block idle (R31, R193). -/
theorem engineStep_done (c : Configuration) (h : s.busy = true) :
    (engineStep c s).done = (s.done || !(engineStep c s).busy) := by
  unfold engineStep
  split
  · next hl => exact absurd ((layerAt_eq_none_iff _ _).mp hl) ((busy_iff s).mp h)
  · simp [State.busy]

/-! ### The four cases of a step -/

/-- What a step does to the block. -/
inductive BlockEffect (c : Configuration) (s t : State) : Prop where
  | same (h : t.block = s.block) (hv : VarsLegal s → VarsLegal t)
  | register (off : Byte) (v : BusWord) (rest : List Stmt) (ht : turnOf s = some .host)
      (hp : s.program = .write .w32 off v :: rest) (h : RegisterEffect c off v (s.turnUsed.withProgram rest) t)
  | engine (ht : turnOf s = some .engine) (hb : s.busy = true) (h : t = engineStep c s.turnUsed)
  | reset (ht : turnOf s = some .reset) (h : t = s.turnUsed.resetBlock)

/-- The host keeps the block unless its statement is a whole write to a mapped register. -/
theorem hostEffect_block (ht : turnOf s = some .host) (h : HostEffect c s.turnUsed t) : BlockEffect c s t := by
  cases h with
  | none _ h => exact .same (by simp [h]) (varsLegal_of_vars (by simp [h]))
  | write width off v rest hp h =>
    cases h with
    | busFault k _ h => exact .same (by simp [h]) (varsLegal_of_vars (by simp [h]))
    | register hw h => exact .register off v rest ht (hw ▸ hp) h
  | read width off n rest _ h =>
    exact .same (by simp [h]) fun hs => h ▸ receive_varsLegal n _ (varsLegal_of_vars (by simp) hs)
  | pollAgain n rest _ _ h => exact .same (by simp [h]) fun hs => h ▸ assign_rising n _ _ hs
  | pollDone n rest _ _ h => exact .same (by simp [h]) fun hs => h ▸ assign_rising n _ _ hs

/-- The inversion of a step, for the block: an idle engine's turn keeps the block (R190). -/
theorem stepEffect_block (h : StepEffect c s t) : BlockEffect c s t := by
  cases h with
  | wait _ h => exact .same (by rw [h]) (by simp [h])
  | host ht h => exact hostEffect_block ht h
  | engine ht h =>
    cases hb : s.busy with
    | true => exact .engine ht hb h
    | false =>
      rw [engineStep_idle c (s := s.turnUsed) ((busy_eq_false_iff s).mp hb)] at h
      exact .same (by simp [h]) (varsLegal_of_vars (by simp [h]))
  | reset ht h => exact .reset ht h

end Sys2Proof.Machine
end

section
/-! The invariant of the machine (O48, O47). -/

namespace Sys2Proof.Machine

variable {c : Configuration} {s t : State}

theorem allWritten_replicate_true : allWritten (.replicate N true) = true := by decide

/-- The tables of R191 and R192 lead from a legal position to a legal one. -/
theorem nextSeq_legal {R : Nat} {q : Seq} (h : positionLegal R q = true) : positionLegal R (nextSeq R q) = true := by
  cases q with
  | idle => rfl
  | enc i ph =>
    cases ph with
    | ek0 =>
      have h : i = 0 ∧ 1 ≤ R := of_decide_eq_true h
      exact decide_eq_true (by omega : i < R)
    | erc => exact h
    | esub => exact h
    | elin => exact h
    | ekey =>
      simp only [nextSeq]
      split
      · next hlt => exact decide_eq_true hlt
      · rfl
  | dec i ph =>
    cases ph with
    | dkey => exact h
    | dilin => exact h
    | disub => exact h
    | drc =>
      simp only [nextSeq]
      split
      · next hlt => exact decide_eq_true hlt
      · exact decide_eq_true rfl
    | dkf => rfl

/-- With KEY_VALID set, legality asks that ROUNDS is at least 1 (R27). -/
theorem instanceLegal_of_keyValid (hk : s.keyValid = true) (hR : 1 ≤ s.rounds.toNat) : InstanceLegal s := by
  rw [InstanceLegal, if_pos hk]
  exact hR

theorem one_le_rounds (hs : InstanceLegal s) (hk : s.keyValid = true) : 1 ≤ s.rounds.toNat := by
  rwa [InstanceLegal, if_pos hk] at hs

theorem instanceLegal_of_fields (hk : t.keyValid = s.keyValid) (hR : t.rounds = s.rounds) (hK : t.key = s.key)
    (hs : InstanceLegal s) : InstanceLegal t := by
  rw [InstanceLegal, hk, hR, hK]
  exact hs

/-- An idle block is legal where KEY, ROUNDS and KEY_VALID agree and the host variables are in order. -/
theorem legal_of_idle (hq : s.seq = .idle) (hi : InstanceLegal s) (hv : VarsLegal s) : Legal s :=
  ⟨hi, by rw [hq]; rfl, fun hb => absurd hq ((busy_iff s).mp hb), hv⟩

theorem legal_of_block (h : t.block = s.block) (hv : VarsLegal t) (hs : Legal s) : Legal t := by
  obtain ⟨hi, hp, ho, _⟩ := hs
  refine ⟨instanceLegal_of_fields (keyValid_of_block h) (rounds_of_block h) (key_of_block h) hi, ?_, ?_, hv⟩
  · rw [rounds_of_block h, seq_of_block h]
    exact hp
  · rw [OperationLegal, busy_of_block h, keyValid_of_block h, seq_of_block h, dataWritten_of_block h]
    exact ho

/-- An admitted configuration resolves every RND to a count of at least 1 (R143). -/
theorem one_le_resolveRounds (hc : c.WellFormed) (rnd : Byte) : 1 ≤ (resolveRounds c rnd).toNat := by
  obtain ⟨_, ⟨⟨hlo, hhi⟩, _⟩, _⟩ := hc
  unfold resolveRounds
  split
  · rw [BitVec.toNat_ofNat]
    omega
  · next h => exact Nat.pos_of_ne_zero fun h0 => h (BitVec.eq_of_toNat_eq h0)

/-- An operation accepted under KEY_VALID is legal where its first position is (R113, R114). -/
theorem begin_legal {q : Seq} (hs : Legal s) (hk : s.keyValid = true) (hp : positionLegal s.rounds.toNat q = true)
    (hq : q.isStart = true) : Legal (s.takeData.begin q) := by
  obtain ⟨hi, _, _, hv⟩ := hs
  refine ⟨instanceLegal_of_fields (by simp) (by simp) (by simp) hi, by simpa using hp, fun _ => ?_,
    varsLegal_of_vars (by simp) hv⟩
  simp [hk, hq]

/-- An accepted command keeps the invariant. -/
theorem effect_legal {i : Instr} (hc : c.WellFormed) (hb : s.busy = false) (hs : Legal s) (h : Effect c s t i) :
    Legal t := by
  have hq := (busy_eq_false_iff s).mp hb
  obtain ⟨hi, _, _, hv⟩ := id hs
  cases h with
  | nop h => exact h ▸ legal_of_idle hq hi hv
  | setup len rnd _ h =>
    exact h ▸ legal_of_idle (by simpa using hq) (instanceLegal_of_keyValid rfl (one_le_resolveRounds hc rnd))
      (varsLegal_of_vars (by simp) hv)
  | encrypt len _ hk h =>
    exact h ▸ begin_legal hs hk (decide_eq_true ⟨rfl, one_le_rounds hi hk⟩) rfl
  | decrypt len _ hk h => exact h ▸ begin_legal hs hk (decide_eq_true (one_le_rounds hi hk)) rfl
  | release h => exact h ▸ legal_of_idle hq ⟨rfl, rfl⟩ hv

/-- A register write keeps the invariant. -/
theorem registerEffect_legal {off : Byte} {v : BusWord} (hc : c.WellFormed) (hs : Legal s)
    (h : RegisterEffect c off v s t) : Legal t := by
  obtain ⟨hi, _, _, hv⟩ := id hs
  cases h with
  | ignored _ h => exact h ▸ hs
  | status _ h => exact h ▸ hs
  | keyin w _ h => exact h ▸ hs
  | data w _ hb h => exact h ▸ legal_of_idle ((busy_eq_false_iff s).mp hb) hi hv
  | dropped _ e h =>
    rw [h, raise_eq]
    exact hs
  | command _ hb i _ h => exact effect_legal hc hb hs h

/-- A running engine's step keeps the invariant. -/
theorem engineStep_legal (hb : s.busy = true) (hs : Legal s) : Legal (engineStep c s) := by
  obtain ⟨hi, hp, ho, hv⟩ := hs
  refine ⟨instanceLegal_of_fields (by simp) (by simp) (by simp) hi, ?_, fun _ => ?_, varsLegal_of_vars (by simp) hv⟩
  · rw [engineStep_rounds, engineStep_seq]
    exact nextSeq_legal hp
  · rw [engineStep_keyValid, engineStep_dataWritten c ((busy_iff s).mp hb)]
    exact ⟨(ho hb).1, fun _ => allWritten_replicate_true⟩

/-- A reset leaves a legal block (R39). -/
theorem resetBlock_legal (hv : VarsLegal s) : Legal s.resetBlock := legal_of_idle rfl ⟨rfl, rfl⟩ hv

theorem blockEffect_legal (hc : c.WellFormed) (hs : Legal s) (h : BlockEffect c s t) : Legal t := by
  obtain ⟨_, _, _, hvars⟩ := id hs
  cases h with
  | same h hv => exact legal_of_block h (hv hvars) hs
  | register off v rest _ _ h => exact registerEffect_legal hc (s := s.turnUsed.withProgram rest) hs h
  | engine _ hb h => exact h ▸ engineStep_legal (s := s.turnUsed) hb hs
  | reset _ h => exact h ▸ resetBlock_legal (s := s.turnUsed) hvars

/-- Settles O48: each of the four cases of a step keeps the invariant. -/
theorem stepKeepsLegal : Obligations.StepKeepsLegal := fun _ _ hs h =>
  blockEffect_legal Config.chip.ok hs (stepEffect_block (step_next h))

/-- Settles O47: the reset state is the block's reset of itself. -/
theorem resetIsLegal : Obligations.ResetIsLegal := resetBlock_legal (s := State.reset) .nil

end Sys2Proof.Machine
end

section
/-! What a step does to the flags BUSY, DONE and WARN (spec/10_state.md R29, R31, R32). -/

namespace Sys2Proof.Machine

variable {c : Configuration} {s t : State}

/-- A step's effect on the three flags, one case for each way the spec lets them change. -/
inductive FlagEffect (c : Configuration) (s t : State) : Prop where
  | kept (hb : t.busy = s.busy) (hd : t.done = s.done) (hw : t.warn = s.warn)
  | statusWrite (v : BusWord) (hi : hostWrites s statusOffset v) (hb : t.busy = s.busy)
      (hd : t.done = (s.done && !v.getLsbD 2)) (hw : t.warn = (s.warn && !v.getLsbD 3))
  | completes (hi : hostIssues s .nop ∨ hostIssues s .release) (hs : s.busy = false) (hb : t.busy = false)
      (hd : t.done = true) (hw : t.warn = s.warn)
  | setup (len rnd : Byte) (hi : hostIssues s (.setup len rnd)) (hs : s.busy = false) (hb : t.busy = false)
      (hd : t.done = true) (hw : t.warn = (s.warn || warnsOf c rnd))
  | starts (len : Byte) (hi : hostIssues s (.encrypt len) ∨ hostIssues s (.decrypt len)) (hs : s.busy = false)
      (hb : t.busy = true) (hd : t.done = false) (hw : t.warn = s.warn)
  | engine (ht : turnOf s = some .engine) (hs : s.busy = true) (hd : t.done = (s.done || !t.busy))
      (hw : t.warn = s.warn)
  | reset (ht : turnOf s = some .reset) (hb : t.busy = false) (hd : t.done = false) (hw : t.warn = false)

/-- The flags after an accepted command the host has issued. -/
theorem effect_flags {i : Instr} {u : State} (hu : u.block = s.block) (hb : s.busy = false) (hi : hostIssues s i)
    (h : Effect c u t i) : FlagEffect c s t := by
  have hub : u.busy = false := (busy_of_block hu).trans hb
  have hw := warn_of_block hu
  cases h with
  | nop h => exact .completes (.inl hi) hb (by simp [h, hub]) (by simp [h]) (by simp [h, hw])
  | setup len rnd _ h => exact .setup len rnd hi hb (by simp [h, hub]) (by simp [h]) (by simp [h, hw])
  | encrypt len _ _ h => exact .starts len (.inl hi) hb (h ▸ rfl) (by simp [h]) (by simp [h, hw])
  | decrypt len _ _ h => exact .starts len (.inr hi) hb (h ▸ rfl) (by simp [h]) (by simp [h, hw])
  | release h => exact .completes (.inr hi) hb (by simp [h, hub]) (by simp [h]) (by simp [h, hw])

/-- The flags after the host's write to a register. -/
theorem registerEffect_flags {off : Byte} {v : BusWord} {u : State} (hu : u.block = s.block)
    (hi : hostWrites s off v) (h : RegisterEffect c off v u t) : FlagEffect c s t := by
  have hb := busy_of_block hu
  have hd := done_of_block hu
  have hw := warn_of_block hu
  cases h with
  | ignored _ h => exact .kept (by rw [h, hb]) (by rw [h, hd]) (by rw [h, hw])
  | status ho h =>
    exact .statusWrite v (ho ▸ hi) (by simp [h, State.writeStatus, hb]) (by simp [h, State.writeStatus, hd])
      (by simp [h, State.writeStatus, hw])
  | keyin w _ h => exact .kept (by simp [h, hb]) (by simp [h, hd]) (by simp [h, hw])
  | data w _ _ h => exact .kept (by simp [h, hb]) (by simp [h, hd]) (by simp [h, hw])
  | dropped _ e h => exact .kept (by simp [h, hb]) (by simp [h, hd]) (by simp [h, hw])
  | command ho hub i hdec h => exact effect_flags hu (hb ▸ hub) ⟨v, ho ▸ hi, hdec⟩ h

theorem blockEffect_flags (h : BlockEffect c s t) : FlagEffect c s t := by
  cases h with
  | same h _ => exact .kept (busy_of_block h) (done_of_block h) (warn_of_block h)
  | register off v rest ht hp h =>
    exact registerEffect_flags (u := s.turnUsed.withProgram rest) rfl ⟨ht, rest, hp⟩ h
  | engine ht hb h =>
    subst h
    exact .engine ht hb (engineStep_done c (s := s.turnUsed) hb) (by simp)
  | reset ht h => subst h; exact .reset ht rfl rfl rfl

theorem stepEffect_flags (h : StepEffect c s t) : FlagEffect c s t := blockEffect_flags (stepEffect_block h)

/-- A round count warns exactly when it is explicit and outside the safe range (R144). -/
theorem warnsOf_iff (c : Configuration) (rnd : Byte) :
    warnsOf c rnd = true ↔ rnd ≠ 0 ∧ (rnd.toNat < c.safeMin ∨ c.safeMax < rnd.toNat) := by
  simp [warnsOf]

/-- Settles O49: of the ways the flags change, only an operation's start sets BUSY, and only the engine and a reset
clear it. The other ways contradict the change. -/
theorem busyChangesOnlyBy : Obligations.BusyChangesOnlyBy := by
  intro s t h
  have hf := stepEffect_flags (step_next h)
  constructor
  · intro hs ht
    cases hf with
    | starts len hi => exact ⟨len, hi⟩
    | _ => simp_all
  · intro hs ht
    cases hf with
    | engine hturn _ hd => exact .inr ⟨hturn, by simp [hd, ht]⟩
    | reset hturn => exact .inl hturn
    | _ => simp_all

/-- Settles O51: of the ways the flags change, only a SETUP that warns sets WARN, and only a STATUS write and a reset
clear it. -/
theorem warnChangesOnlyBy : Obligations.WarnChangesOnlyBy := by
  intro c s t h
  have hf := stepEffect_flags (stepUnder_next h).2
  constructor
  · intro hs ht
    cases hf with
    | setup len rnd hi _ _ _ hw => exact ⟨len, rnd, hi, (warnsOf_iff c rnd).mp (by simpa [hs, ht] using hw.symm)⟩
    | _ => simp_all
  · intro hs ht
    cases hf with
    | statusWrite v hi _ _ hw => exact .inr ⟨v, hi, by simpa [hs, ht] using hw.symm⟩
    | reset hturn => exact .inl hturn
    | _ => simp_all

/-- Settles O52: of the ways the flags change, only a completion sets DONE, and only an operation's start, a STATUS
write and a reset clear it. -/
theorem doneChangesOnlyBy : Obligations.DoneChangesOnlyBy := by
  intro s t h
  have hf := stepEffect_flags (step_next h)
  constructor
  · intro hs ht
    cases hf with
    | engine hturn hb hd => exact .inl ⟨hturn, hb, by simpa [hs, ht] using hd⟩
    | completes hi hb => exact .inr ⟨hb, hi.elim .inl fun hr => .inr (.inr hr)⟩
    | setup len rnd hi hb => exact .inr ⟨hb, .inr (.inl ⟨len, rnd, hi⟩)⟩
    | _ => simp_all
  · intro hs ht
    cases hf with
    | statusWrite v hi _ hd => exact .inr (.inl ⟨v, hi, by simpa [hs, ht] using hd.symm⟩)
    | starts len hi _ hb => exact .inr (.inr ⟨hb, len, hi⟩)
    | reset hturn => exact .inl hturn
    | _ => simp_all

end Sys2Proof.Machine
end

section
/-! The values of STATUS and CFG, bit by bit and as a number (spec/10_state.md R26, R28). -/

namespace Sys2Proof.Machine

/-! ### The STATUS value -/

theorem flagBit_getLsbD (b : Bool) {k : Nat} (hk : k < 32) (i : Nat) :
    (flagBit b k).getLsbD i = (b && decide (i = k)) := by
  cases b with
  | false => simp [flagBit]
  | true =>
    have h : (1#32 <<< k).getLsbD i = decide (i = k) := by
      rw [BitVec.getLsbD_shiftLeft, BitVec.getLsbD_one, Bool.eq_iff_iff]
      simp
      omega
    simpa [flagBit] using h

/-- The code of ERR stands in bits 11:8. -/
theorem errField_shifted_getLsbD (e : Option Error) (i : Nat) :
    ((errField e).setWidth 32 <<< 8).getLsbD i = (!decide (i < 8) && (errField e).getLsbD (i - 8)) := by
  rw [BitVec.getLsbD_shiftLeft, BitVec.getLsbD_setWidth]
  by_cases h : i < 12
  · simp [(by omega : i < 32), (by omega : i - 8 < 32)]
  · simp [BitVec.getLsbD_of_ge _ _ (by omega : 4 ≤ i - 8)]

/-- Bit by bit, the STATUS value is its five flags and the code of ERR (R28). -/
theorem statusValue_getLsbD (s : State) (i : Nat) :
    s.statusValue.getLsbD i =
      (s.busy && decide (i = 0) || s.keyValid && decide (i = 1) || s.done && decide (i = 2) ||
        s.warn && decide (i = 3) || s.errovf && decide (i = 4) ||
        !decide (i < 8) && (errField s.err).getLsbD (i - 8)) := by
  simp only [State.statusValue, BitVec.getLsbD_or, errField_shifted_getLsbD]
  simp only [flagBit_getLsbD, Nat.reduceLT]

theorem statusValue_extract_err (s : State) : s.statusValue.extractLsb' 8 4 = errField s.err := by
  apply BitVec.eq_of_getLsbD_eq
  intro i hi
  have hne : ∀ k ≤ 4, ¬ 8 + i = k := by omega
  simp [statusValue_getLsbD, hi, hne]

/-- Settles O14, by the STATUS value bit by bit. -/
theorem statusLayout : Obligations.StatusLayout := by
  intro s
  refine ⟨by rw [statusValue_bit_zero, busy_iff], by rw [statusValue_getLsbD]; simp,
    by rw [statusValue_getLsbD]; simp, by rw [statusValue_getLsbD]; simp, by rw [statusValue_getLsbD]; simp,
    ?_, fun i hi => ?_⟩
  · rw [statusValue_extract_err]
    cases s.err with
    | none => rfl
    | some e => cases e <;> rfl
  · have hne : ∀ k ≤ 4, ¬ i = k := by omega
    rcases hi with ⟨_, h8⟩ | h12
    · simp [statusValue_getLsbD, hne, h8]
    · simp [statusValue_getLsbD, hne, BitVec.getLsbD_of_ge _ _ (by omega : 4 ≤ i - 8)]

/-! ### The CFG value -/

/-- A byte put above a value that ends below it adds its multiple. -/
theorem toNat_or_byte_shiftLeft {x : BusWord} {k n : Nat} (hx : x.toNat < 2 ^ k) (hk : k ≤ 24) (hn : n ≤ 255) :
    (x ||| (BitVec.ofNat 8 n).setWidth 32 <<< k).toNat = x.toNat + 2 ^ k * n := by
  have hlt : n * 2 ^ k < 2 ^ 32 :=
    calc n * 2 ^ k < 2 ^ 8 * 2 ^ k := by gcongr; omega
      _ = 2 ^ (8 + k) := (pow_add 2 8 k).symm
      _ ≤ 2 ^ 32 := by gcongr <;> omega
  have hmod : n % 2 ^ 8 % 2 ^ 32 = n := by omega
  rw [BitVec.toNat_or, BitVec.toNat_shiftLeft, BitVec.toNat_setWidth, BitVec.toNat_ofNat, hmod, Nat.shiftLeft_eq,
    Nat.mod_eq_of_lt hlt, Nat.or_comm, ← Nat.shiftLeft_eq, ← Nat.shiftLeft_add_eq_or_of_lt hx, Nat.shiftLeft_eq]
  ring

/-- The CFG value as a number (R26). -/
theorem cfgValue_toNat {c : Configuration} (hc : c.RoundsLaw) :
    (cfgValue c).toNat = N + 256 * c.defaultRounds + 65536 * c.safeMin + 16777216 * c.safeMax := by
  obtain ⟨⟨_, hd⟩, ⟨_, hlo⟩, ⟨_, hhi⟩, _⟩ := hc
  have h0 : (8#32).toNat = 8 := rfl
  have h1 := toNat_or_byte_shiftLeft (x := 8#32) (k := 8) (by decide) (by omega) hd
  have h2 := toNat_or_byte_shiftLeft (k := 16) (h1.trans_lt (by rw [h0]; omega)) (by omega) hlo
  have h3 := toNat_or_byte_shiftLeft (k := 24) (h2.trans_lt (by rw [h1, h0]; omega)) (by omega) hhi
  rw [cfgValue, h3, h2, h1]
  rfl

/-- Settles O16: a read of CFG is its value, whose four bytes add up, and a write of it is ignored. -/
theorem cfgReportsTheConfiguration : Obligations.CfgReportsTheConfiguration := by
  intro c v s hc
  obtain ⟨_, hr, _⟩ := hc
  have hn := cfgValue_toNat hr
  constructor
  · rw [← hn, BitVec.ofNat_toNat, BitVec.setWidth_eq]
    exact busRead_offset c .cfg s
  · exact busWrite_offset exec .cfg v s

end Sys2Proof.Machine
end

section
/-! No read depends on KEY, and no engine step on KEYIN (spec/10_state.md R22, R23). -/

namespace Sys2Proof.Machine

theorem readFree_key (b : Bool) (s : State) (k : Block) :
    readFree b { s with key := k } = ((readFree b s).1, { (readFree b s).2 with key := k }) := by
  cases b <;> simp [readFree, markFault_eq, State.drawn]

/-- A register read neither reads nor writes KEY. -/
theorem readReg_key (c : Configuration) (r : Reg) (s : State) (k : Block) :
    readReg c r { s with key := k } = ((readReg c r s).1, { (readReg c r s).2 with key := k }) := by
  cases r with
  | cfg => rfl
  | status => rfl
  | cmd => rfl
  | rounds => rfl
  | keyin w =>
    simp only [readReg, readFree_key]
    split <;> rfl
  | data w =>
    have hb : ({ s with key := k } : State).busy = s.busy := rfl
    simp only [readReg, readFree_key, hb]
    split
    · rfl
    · split <;> rfl

/-- Settles O23: no register read depends on KEY. -/
theorem readsDoNotDependOnKey : Obligations.ReadsDoNotDependOnKey := by
  intro c width off s k
  unfold busRead
  cases busCheck width off with
  | error f => simp [markFault_eq]
  | ok r => simp [readReg_key]

/-- An engine step neither reads nor writes KEYIN and its marks. -/
theorem engineStep_keyin (c : Configuration) (s : State) (k : Block) (m : Marks) :
    engineStep c { s with keyin := k, keyinWritten := m } =
      { engineStep c s with keyin := k, keyinWritten := m } := by
  unfold engineStep
  dsimp only
  split <;> rfl

/-- Settles O41, by induction on the number of engine steps. -/
theorem keyinDoesNotReachTheEngine : Obligations.KeyinDoesNotReachTheEngine := by
  intro c n
  induction n with
  | zero => exact fun _ _ _ => rfl
  | succ n ih =>
    intro s k m
    rw [engineSteps_succ, engineStep_keyin, ih, engineSteps_succ]

end Sys2Proof.Machine
end

section
/-! What a reset leaves (spec/10_state.md R39). -/

namespace Sys2Proof.Machine

/-- Every piece of the block's state at its reset value, as R39 lists them. -/
def AtReset (u : State) : Prop :=
  (∀ w : Fin N, u.dataWritten[w] = false ∧ u.keyinWritten[w] = false ∧ u.key[w] = 0) ∧ u.rounds = 0 ∧
    u.busy = false ∧ u.keyValid = false ∧ u.done = false ∧ u.warn = false ∧ u.errovf = false ∧
    u.err = none ∧ u.seq = .idle ∧ u.statusValue = 0#32

theorem resetBlock_atReset (s : State) : AtReset s.resetBlock :=
  ⟨fun w => by simp, rfl, rfl, rfl, rfl, rfl, rfl, rfl, rfl, by simp [State.statusValue, flagBit, errField]⟩

/-- Settles O46: the step is the reset of the block, and State.reset is the block's reset of itself. -/
theorem resetLeavesTheResetState : Obligations.ResetLeavesTheResetState := by
  intro s rest hs
  have ht : turnOf s = some .reset := by simp [turnOf, hs]
  refine ⟨s.turnUsed.resetBlock, step_of_turn ht, fun u hu => ?_, rfl, rfl, rfl, rfl, by simp [hs]⟩
  rcases List.mem_pair.mp hu with rfl | rfl
  · exact resetBlock_atReset s.turnUsed
  · exact resetBlock_atReset State.reset

end Sys2Proof.Machine
end

section
/-! What the registers of the window answer, one equation a register (spec/20_memory.md R64 to R66). -/

namespace Sys2Proof.Machine

/-- A free value of a busy block's DATA moves the count of draws. -/
theorem readFree_busy (s : State) :
    readFree false s = ((Config.draw s.draws).setWidth 32, { s with draws := s.draws + 1 }) := rfl

/-- A free value for a word that was never written moves the count of draws and records UnwrittenRead. -/
theorem readFree_unwritten (s : State) :
    readFree true s = ((Config.draw s.draws).setWidth 32,
      { s with draws := s.draws + 1, fault := some (s.fault.getD .unwrittenRead) }) := by
  simp [readFree, markFault_eq, State.drawn]

variable {c : Configuration} {s : State} {w : Fin N}

theorem readReg_keyin_written (h : s.keyinWritten[w] = true) :
    readReg c (.keyin w) s = ((s.keyin[w]).setWidth 32, s) := if_pos h

theorem readReg_keyin_unwritten (h : ¬ s.keyinWritten[w] = true) : readReg c (.keyin w) s = readFree true s :=
  if_neg h

theorem readReg_data_busy (hb : s.busy = true) : readReg c (.data w) s = readFree false s := if_pos hb

theorem readReg_data_written (hb : ¬ s.busy = true) (h : s.dataWritten[w] = true) :
    readReg c (.data w) s = ((s.data[w]).setWidth 32, s) := (if_neg hb).trans (if_pos h)

theorem readReg_data_unwritten (hb : ¬ s.busy = true) (h : ¬ s.dataWritten[w] = true) :
    readReg c (.data w) s = readFree true s := (if_neg hb).trans (if_neg h)

/-- Reading a register at its own offset is reading the register. -/
theorem busRead_keyin (c : Configuration) (w : Fin N) (s : State) :
    busRead c .w32 (keyinOffset w) s = (some (readReg c (.keyin w) s).1, (readReg c (.keyin w) s).2) :=
  busRead_offset c (.keyin w) s

theorem busRead_data (c : Configuration) (w : Fin N) (s : State) :
    busRead c .w32 (dataOffset w) s = (some (readReg c (.data w) s).1, (readReg c (.data w) s).2) :=
  busRead_offset c (.data w) s

/-- What a KEYIN read returns, by the mark of the word (R64). -/
theorem busRead_keyin_returns (c : Configuration) (w : Fin N) (s : State) :
    if s.keyinWritten[w] = true then busRead c .w32 (keyinOffset w) s = (some ((s.keyin[w]).setWidth 32), s)
    else ∃ d : Word, busRead c .w32 (keyinOffset w) s =
      (some (d.setWidth 32), { s with draws := s.draws + 1, fault := some (s.fault.getD .unwrittenRead) }) := by
  rw [busRead_keyin]
  split
  · next h => rw [readReg_keyin_written h]
  · next h => exact ⟨Config.draw s.draws, by rw [readReg_keyin_unwritten h, readFree_unwritten]⟩

/-- What a DATA read returns, by BUSY and the mark of the word (R64, R67 (b)). -/
theorem busRead_data_returns (c : Configuration) (w : Fin N) (s : State) :
    if s.busy = true then ∃ d : Word, busRead c .w32 (dataOffset w) s =
      (some (d.setWidth 32), { s with draws := s.draws + 1 })
    else if s.dataWritten[w] = true then busRead c .w32 (dataOffset w) s = (some ((s.data[w]).setWidth 32), s)
    else ∃ d : Word, busRead c .w32 (dataOffset w) s =
      (some (d.setWidth 32), { s with draws := s.draws + 1, fault := some (s.fault.getD .unwrittenRead) }) := by
  rw [busRead_data]
  split
  · next hb => exact ⟨Config.draw s.draws, by rw [readReg_data_busy hb, readFree_busy]⟩
  · next hb =>
    split
    · next h => rw [readReg_data_written hb h]
    · next h => exact ⟨Config.draw s.draws, by rw [readReg_data_unwritten hb h, readFree_unwritten]⟩

/-- Settles O17, register by register. -/
theorem busReadReturns : Obligations.BusReadReturns := fun c s =>
  ⟨busRead_offset c .cfg s, busRead_offset c .status s, busRead_offset c .cmd s, busRead_offset c .rounds s,
    fun w => ⟨busRead_keyin_returns c w s, busRead_data_returns c w s⟩⟩

/-! ### Writes -/

theorem busWrite_keyin (run : Instr → State → Result) (w : Fin N) (v : BusWord) (s : State) :
    busWrite run .w32 (keyinOffset w) v s = .next (s.writeKeyin w (v.setWidth 16)) :=
  busWrite_offset run (.keyin w) v s

theorem busWrite_data (run : Instr → State → Result) (w : Fin N) (v : BusWord) (s : State) :
    busWrite run .w32 (dataOffset w) v s =
      if s.busy then .next (s.raise .busy) else .next (s.writeData w (v.setWidth 16)) :=
  busWrite_offset run (.data w) v s

theorem busWrite_data_idle (run : Instr → State → Result) (w : Fin N) (v : BusWord) (hb : s.busy = false) :
    busWrite run .w32 (dataOffset w) v s = .next (s.writeData w (v.setWidth 16)) := by
  rw [busWrite_data, hb]
  rfl

/-- Bits 15:0 of a bus value as a number. -/
theorem ofNat_mod_eq_setWidth (v : BusWord) : BitVec.ofNat 16 (v.toNat % 65536) = v.setWidth 16 := by
  apply BitVec.eq_of_toNat_eq
  simp

/-- Settles O18, register by register. -/
theorem busWriteSetsOneWord : Obligations.BusWriteSetsOneWord := by
  intro v s w
  rw [ofNat_mod_eq_setWidth]
  exact ⟨busWrite_keyin exec w v s, busWrite_data exec w v s, busWrite_offset exec .cfg v s,
    busWrite_offset exec .rounds v s⟩

/-! ### Bits 31:16, and reading back -/

/-- Masking a bus value to bits 15:0 is taking them and extending them with zeros. -/
theorem and_low_half (v : BusWord) : v &&& 0x0000FFFF#32 = (v.setWidth 16).setWidth 32 := by
  apply BitVec.eq_of_toNat_eq
  rw [BitVec.toNat_and, BitVec.toNat_setWidth, BitVec.toNat_setWidth]
  exact (Nat.and_two_pow_sub_one_eq_mod v.toNat 16).trans (by omega)

theorem setWidth_and_low_half (v : BusWord) : (v &&& 0x0000FFFF#32).setWidth 16 = v.setWidth 16 := by
  rw [and_low_half, BitVec.setWidth_setWidth_of_le _ (by decide), BitVec.setWidth_eq]

theorem high_half_of_word (d : Word) : (d.setWidth 32).extractLsb' 16 16 = 0#16 := by
  apply BitVec.eq_of_getLsbD_eq
  intro i hi
  simp

/-- A KEYIN or DATA write looks at bits 15:0 of its value only (R66). -/
theorem busWrite_low_half {off : Byte} (ho : off = keyinOffset w ∨ off = dataOffset w) (run : Instr → State → Result)
    (v : BusWord) (s : State) : busWrite run .w32 off v s = busWrite run .w32 off (v &&& 0x0000FFFF#32) s := by
  rcases ho with rfl | rfl
  · rw [busWrite_keyin, busWrite_keyin, setWidth_and_low_half]
  · rw [busWrite_data, busWrite_data, setWidth_and_low_half]

/-- The value of a KEYIN or DATA read is a 16-bit word, zero-extended (R66, R67 (b)). -/
theorem busRead_is_word {off : Byte} (ho : off = keyinOffset w ∨ off = dataOffset w) (c : Configuration) (s : State) :
    ∃ d : Word, (busRead c .w32 off s).1 = some (d.setWidth 32) := by
  rcases ho with rfl | rfl
  · have h := busRead_keyin_returns c w s
    split at h
    · exact ⟨_, by rw [h]⟩
    · obtain ⟨d, h⟩ := h
      exact ⟨d, by rw [h]⟩
  · have h := busRead_data_returns c w s
    split at h
    · obtain ⟨d, h⟩ := h
      exact ⟨d, by rw [h]⟩
    · split at h
      · exact ⟨_, by rw [h]⟩
      · obtain ⟨d, h⟩ := h
        exact ⟨d, by rw [h]⟩

/-- Writing one word of a file keeps the others. -/
theorem set_getElem_of_ne {α : Type} (f : Vector α N) (x : α) {u : Fin N} (h : u ≠ w) : (f.set w x)[u] = f[u] :=
  Vector.getElem_set_ne w.isLt u.isLt fun hw => h (Fin.ext hw.symm)

/-- Settles O19: by what a write sets and what a read of a written word returns. -/
theorem writtenWordReadsBack : Obligations.WrittenWordReadsBack := by
  intro c v s w u
  refine ⟨fun off ho => ⟨busWrite_low_half ho exec v s, fun x t hx => ?_⟩, fun t ht => ?_, fun hb t ht => ?_⟩
  · obtain ⟨d, hd⟩ := busRead_is_word ho c s
    rw [hx] at hd
    cases hd
    exact high_half_of_word d
  · rw [busWrite_keyin] at ht
    cases ht
    refine ⟨?_, fun h => ⟨set_getElem_of_ne s.keyin _ h, set_getElem_of_ne s.keyinWritten _ h⟩, rfl, rfl⟩
    rw [busRead_keyin, readReg_keyin_written (by simp), and_low_half]
    simp
  · rw [busWrite_data_idle exec w v hb] at ht
    cases ht
    refine ⟨?_, fun h => ⟨set_getElem_of_ne s.data _ h, set_getElem_of_ne s.dataWritten _ h⟩, rfl, rfl⟩
    rw [busRead_data, readReg_data_written (by simp [hb]) (by simp), and_low_half]
    simp

end Sys2Proof.Machine
end

section
/-! The map of the window: its registers, its holes and its faults (spec/20_memory.md R60 to R63). -/

namespace Sys2Proof.Machine

/-- Settles O21, by the map and its inverse. -/
theorem registerMapExact : Obligations.RegisterMapExact := fun _ r ha =>
  ⟨offset_of_regAt ha, fun h => h ▸ regAt_offset r⟩

/-- Settles O22: the offset of an address in the window is its distance from BASE. -/
theorem windowIsBasePlusOffset : Obligations.WindowIsBasePlusOffset := by
  intro c addr off
  have hoff := off.isLt
  unfold windowOffset
  split
  · next h =>
    rw [Option.some.injEq, ← BitVec.toNat_inj, BitVec.toNat_ofNat]
    omega
  · next h =>
    simp only [reduceCtorEq, false_iff]
    omega

/-- The holes of the map: the aligned offsets that R61 marks unmapped. -/
theorem regAt_eq_none_iff {off : Byte} (ha : off.toNat % 4 = 0) :
    regAt off = none ↔ (0x10 ≤ off.toNat ∧ off.toNat < 0x40) ∨ (0x40 + 4 * N ≤ off.toNat ∧ off.toNat < 0x80) ∨
      0x80 + 4 * N ≤ off.toNat := by
  unfold regAt
  split_ifs <;> simp <;> omega

variable {c : Configuration} {s t : State} {width : Width} {off : Byte} {v : BusWord} {k : BusFaultKind}

/-- An access that fails a bus check records its BusFault, has no value and no other effect (R62, R63). -/
theorem access_of_busCheck_error (h : busCheck width off = .error k) (c : Configuration) (run : Instr → State → Result)
    (v : BusWord) (s : State) :
    busRead c width off s = (none, { s with fault := some (s.fault.getD (.busFault k)) }) ∧
      busWrite run width off v s = .next { s with fault := some (s.fault.getD (.busFault k)) } := by
  simp [busRead, busWrite, h, markFault_eq]

theorem getD_unwrittenRead_ne_busFault (f : Option FaultMark) (h : f ≠ some (.busFault k)) :
    some (f.getD .unwrittenRead) ≠ some (FaultMark.busFault k) := by
  cases f with
  | none => simp
  | some g => exact h

/-- A read of a mapped register records no BusFault. -/
theorem readReg_fault_ne_busFault (c : Configuration) (r : Reg) (h : s.fault ≠ some (.busFault k)) :
    (readReg c r s).2.fault ≠ some (.busFault k) := by
  rcases readReg_cases c r s with hs | ⟨_, hs⟩ | ⟨hs, _⟩ <;> rw [hs]
  · exact h
  · exact h
  · rw [State.markFault_fault]
    exact getD_unwrittenRead_ne_busFault s.fault h

/-- A write to a mapped register records no BusFault. -/
theorem writeEffect_fault_ne_busFault {r : Reg} (hr : busCheck width off = .ok r) (h : WriteEffect c width off v s t)
    (hs : s.fault ≠ some (.busFault k)) : t.fault ≠ some (.busFault k) := by
  rcases writeEffect_fault h with ht | ⟨_, hk, _⟩ | ⟨ht, _⟩
  · exact ht ▸ hs
  · cases hr.symm.trans hk
  · exact ht ▸ getD_unwrittenRead_ne_busFault s.fault hs

theorem busCheck_unmapped (ha : off.toNat % 4 = 0) (h : regAt off = none) : busCheck .w32 off = .error .unmapped := by
  simp [busCheck, ha, h]

theorem busCheck_mapped {r : Reg} (ha : off.toNat % 4 = 0) (h : regAt off = some r) : busCheck .w32 off = .ok r := by
  simp [busCheck, ha, h]

/-- Settles O20, by the outcome of the bus checks. -/
theorem busFaultsInOrder : Obligations.BusFaultsInOrder := by
  intro c width off v s
  dsimp only
  split
  · next hw => exact access_of_busCheck_error (if_pos hw) c exec v s
  next hw =>
  obtain rfl := not_not.mp hw
  split
  · next ha => exact access_of_busCheck_error ((if_neg hw).trans (if_pos ha)) c exec v s
  next ha =>
  have ha := not_not.mp ha
  split
  · next hh =>
    exact access_of_busCheck_error (busCheck_unmapped ha ((regAt_eq_none_iff ha).mpr hh)) c exec v s
  next hh =>
  obtain ⟨r, hr⟩ := Option.ne_none_iff_exists'.mp (mt (regAt_eq_none_iff ha).mp hh)
  have hok := busCheck_mapped ha hr
  refine ⟨⟨(readReg c r s).1, by simp [busRead, hok]⟩, fun k hs => ⟨?_, fun t ht => ?_⟩⟩
  · simpa [busRead, hok] using readReg_fault_ne_busFault c r hs
  · rw [← commandUnder_chip] at ht
    exact writeEffect_fault_ne_busFault hok (busWrite_next ht) hs

end Sys2Proof.Machine
end

section
/-! The byte order of blocks and keys (spec/20_memory.md R70). -/

namespace Sys2Proof.Machine

/-- The word of a low and a high byte as a number. -/
theorem packWord_toNat (lo hi : Byte) : (packWord lo hi).toNat = lo.toNat + 256 * hi.toNat := by
  have hlo := lo.isLt
  have hhi := hi.isLt
  have hmod : hi.toNat % 2 ^ 16 * 2 ^ 8 % 2 ^ 16 = hi.toNat * 2 ^ 8 := by omega
  rw [packWord, BitVec.toNat_or, BitVec.toNat_shiftLeft, BitVec.toNat_setWidth, BitVec.toNat_setWidth,
    Nat.shiftLeft_eq, hmod, Nat.mod_eq_of_lt (by omega : lo.toNat < 2 ^ 16), ← Nat.shiftLeft_eq,
    ← Nat.shiftLeft_add_eq_or_of_lt hlo, Nat.shiftLeft_eq]
  omega

theorem packWord_lowByte (lo hi : Byte) : (packWord lo hi).extractLsb' 0 8 = lo := by
  apply BitVec.eq_of_toNat_eq
  rw [BitVec.extractLsb'_toNat, packWord_toNat]
  have hlo := lo.isLt
  omega

theorem packWord_highByte (lo hi : Byte) : (packWord lo hi).extractLsb' 8 8 = hi := by
  apply BitVec.eq_of_toNat_eq
  rw [BitVec.extractLsb'_toNat, packWord_toNat]
  have hlo := lo.isLt
  have hhi := hi.isLt
  omega

theorem packWord_bytes (x : Word) : packWord (x.extractLsb' 0 8) (x.extractLsb' 8 8) = x := by
  apply BitVec.eq_of_toNat_eq
  rw [packWord_toNat, BitVec.extractLsb'_toNat, BitVec.extractLsb'_toNat]
  have hx := x.isLt
  omega

theorem packBytes_getElem (b : Vector Byte blockBytes) {w : Nat} (hw : w < N) :
    (packBytes b)[w] = packWord (b[2 * w]'(lowByte_lt ⟨w, hw⟩)) (b[2 * w + 1]'(highByte_lt ⟨w, hw⟩)) := by
  simp [packBytes]

theorem unpackBytes_getElem (S : Block) {i : Nat} (hi : i < blockBytes) :
    (unpackBytes S)[i] =
      if i % 2 = 0 then (S[i / 2]'(wordOf_lt ⟨i, hi⟩)).extractLsb' 0 8
      else (S[i / 2]'(wordOf_lt ⟨i, hi⟩)).extractLsb' 8 8 := by
  simp [unpackBytes]

/-- A byte of a packed sequence is that byte again: the low byte of its word where its index is even, the high byte
where it is odd. -/
theorem unpackBytes_packBytes (b : Vector Byte blockBytes) : unpackBytes (packBytes b) = b := by
  apply Vector.ext
  intro i hi
  rw [unpackBytes_getElem _ hi, packBytes_getElem]
  split
  · next h =>
    rw [packWord_lowByte]
    congr 1
    omega
  · next h =>
    rw [packWord_highByte]
    congr 1
    omega

theorem packBytes_unpackBytes (S : Block) : packBytes (unpackBytes S) = S := by
  apply Vector.ext
  intro w hw
  have heven : 2 * w % 2 = 0 := by omega
  have hodd : ¬ (2 * w + 1) % 2 = 0 := by omega
  have hlo : 2 * w / 2 = w := by omega
  have hhi : (2 * w + 1) / 2 = w := by omega
  rw [packBytes_getElem _ hw, unpackBytes_getElem, unpackBytes_getElem, if_pos heven, if_neg hodd]
  simp only [hlo, hhi]
  exact packWord_bytes S[w]

/-- Settles O42, by the number a packed word is and the two inverse directions. -/
theorem wordsAreLittleEndian : Obligations.WordsAreLittleEndian := fun b S =>
  ⟨fun w _ _ => (congrArg BitVec.toNat (packBytes_getElem b w.isLt)).trans (packWord_toNat _ _),
    unpackBytes_packBytes b, packBytes_unpackBytes S⟩

end Sys2Proof.Machine
end

section
/-! The host's moves of blocks and keys (spec/20_memory.md R71, R72): each statement has one effect on an idle block,
and a run of statements has their effects in order. -/

namespace Sys2Proof.Machine

/-- On an idle block with no schedule left, the statement `x` has the effect `f`, which leaves BUSY and the schedule as
they are, and the host moves past it. -/
structure Performs (x : Stmt) (f : State → State) : Prop where
  step : ∀ (s : State) (rest : List Stmt), s.busy = false → s.schedule = [] →
    step (s.withProgram (x :: rest)) = .next ((f s).withProgram rest)
  busy : ∀ s : State, (f s).busy = s.busy
  schedule : ∀ s : State, (f s).schedule = s.schedule

/-- A run of statements has their effects in order, and leaves the rest of the program. -/
theorem run_of_performs {α : Type} {stmt : α → Stmt} {f : State → α → State}
    (h : ∀ x, Performs (stmt x) fun s => f s x) (xs : List α) (rest : List Stmt) {s : State} (hb : s.busy = false)
    (hs : s.schedule = []) :
    Sys2Proof.core.run xs.length (s.withProgram (xs.map stmt ++ rest)) =
      .next ((xs.foldl f s).withProgram rest) := by
  induction xs generalizing s with
  | nil => rfl
  | cons x xs ih =>
    exact (run_succ_of_next ((h x).step s _ hb hs)).trans
      (ih (((h x).busy s).trans hb) (((h x).schedule s).trans hs))

/-- The `N` statements of a file's words, run as one. -/
theorem run_file_of_performs {stmt : Fin N → Stmt} {f : State → Fin N → State}
    (h : ∀ w, Performs (stmt w) fun s => f s w) {s : State} {rest : List Stmt} (hb : s.busy = false)
    (hs : s.schedule = []) (hp : s.program = List.ofFn stmt ++ rest) :
    Sys2Proof.core.run N s = .next (((List.finRange N).foldl f s).withProgram rest) := by
  have hr := run_of_performs h (List.finRange N) rest hb hs
  rwa [List.length_finRange, ← List.ofFn_eq_map, ← hp] at hr

/-- A WR on an idle block with no schedule left is its bus write. -/
theorem step_write {s : State} {width : Width} {off : Byte} {v : BusWord} {rest : List Stmt} (hb : s.busy = false)
    (hs : s.schedule = []) :
    step (s.withProgram (.write width off v :: rest)) = busWrite exec width off v (s.withProgram rest) :=
  (step_host (s := s.withProgram (.write width off v :: rest)) hs hb rfl).trans (hostMove_write rfl)

/-- A RD on an idle block with no schedule left receives the value of its bus read. -/
theorem step_read {s : State} {width : Width} {off : Byte} {n : Nat} {rest : List Stmt} (hb : s.busy = false)
    (hs : s.schedule = []) :
    step (s.withProgram (.read width off n :: rest)) =
      .next ((busRead Config.chip.cfg width off (s.withProgram rest)).2.receive n
        (busRead Config.chip.cfg width off (s.withProgram rest)).1) :=
  (step_host (s := s.withProgram (.read width off n :: rest)) hs hb rfl).trans (hostMove_read rfl)

/-! ### Loading -/

/-- A word is what a write of it, zero-extended, writes. -/
theorem setWidth_setWidth_word (x : Word) : (x.setWidth 32).setWidth 16 = x := by
  rw [BitVec.setWidth_setWidth_of_le _ (by decide), BitVec.setWidth_eq]

theorem performs_write_data (S : Block) (w : Fin N) :
    Performs (wr (.data (w.castLE (by decide))) ((S[w]).setWidth 32)) fun s => s.writeData w S[w] where
  step s rest hb hs := by
    have hw := busWrite_data_idle exec w ((S[w]).setWidth 32) (s := s.withProgram rest) hb
    rw [setWidth_setWidth_word] at hw
    exact (step_write hb hs).trans hw
  busy s := s.writeData_busy w S[w]
  schedule s := s.writeData_schedule w S[w]

theorem performs_write_keyin (S : Block) (w : Fin N) :
    Performs (wr (.keyin (w.castLE (by decide))) ((S[w]).setWidth 32)) fun s => s.writeKeyin w S[w] where
  step s rest hb hs := by
    have hw := busWrite_keyin exec w ((S[w]).setWidth 32) (s.withProgram rest)
    rw [setWidth_setWidth_word] at hw
    exact (step_write hb hs).trans hw
  busy s := s.writeKeyin_busy w S[w]
  schedule s := s.writeKeyin_schedule w S[w]

/-- A register file with the words `ws` taken from another. -/
def setWords {α : Type} (T : Vector α N) (ws : List (Fin N)) (f : Vector α N) : Vector α N :=
  ws.foldl (fun f (w : Fin N) => f.set w T[w]) f

theorem setWords_getElem {α : Type} (T : Vector α N) (ws : List (Fin N)) (f : Vector α N) (u : Fin N) :
    (setWords T ws f)[u] = if u ∈ ws then T[u] else f[u] := by
  induction ws generalizing f with
  | nil => rfl
  | cons w ws ih =>
    refine (ih (f.set w T[w])).trans ?_
    by_cases hu : u = w
    · subst hu; simp
    · simp only [List.mem_cons, hu, false_or, set_getElem_of_ne f T[w] hu]

theorem setWords_all {α : Type} (T f : Vector α N) : setWords T (List.finRange N) f = T :=
  Vector.ext fun i hi => (setWords_getElem T (List.finRange N) f ⟨i, hi⟩).trans (if_pos (List.mem_finRange _))

theorem foldl_writeData (S : Block) (ws : List (Fin N)) (s : State) :
    ws.foldl (fun s w => s.writeData w S[w]) s =
      { s with data := setWords S ws s.data, dataWritten := setWords (.replicate N true) ws s.dataWritten } := by
  induction ws generalizing s with
  | nil => rfl
  | cons w ws ih =>
    refine (ih (s.writeData w S[w])).trans ?_
    simp [setWords]

theorem foldl_writeKeyin (S : Block) (ws : List (Fin N)) (s : State) :
    ws.foldl (fun s w => s.writeKeyin w S[w]) s =
      { s with keyin := setWords S ws s.keyin, keyinWritten := setWords (.replicate N true) ws s.keyinWritten } := by
  induction ws generalizing s with
  | nil => rfl
  | cons w ws ih =>
    refine (ih (s.writeKeyin w S[w])).trans ?_
    simp [setWords]

/-- LOADBLOCK on an idle block (R71). -/
theorem run_loadBlock {b : Vector Byte blockBytes} {s : State} {rest : List Stmt} (hb : s.busy = false)
    (hs : s.schedule = []) (hp : s.program = loadBlock b ++ rest) :
    Sys2Proof.core.run N s = .next
      { s with data := packBytes b, dataWritten := .replicate N true, program := rest } := by
  rw [run_file_of_performs (performs_write_data (packBytes b)) hb hs hp, foldl_writeData, setWords_all, setWords_all]
  rfl

/-- LOADKEY on an idle block (R72). -/
theorem run_loadKey {b : Vector Byte blockBytes} {s : State} {rest : List Stmt} (hb : s.busy = false)
    (hs : s.schedule = []) (hp : s.program = loadKey b ++ rest) :
    Sys2Proof.core.run N s = .next
      { s with keyin := packBytes b, keyinWritten := .replicate N true, program := rest } := by
  rw [run_file_of_performs (performs_write_keyin (packBytes b)) hb hs hp, foldl_writeKeyin, setWords_all,
    setWords_all]
  rfl

/-! ### Storing -/

/-- The read of word `w` of DATA into variable `first + w`. -/
def storeWord (c : Configuration) (first : Nat) (s : State) (w : Fin N) : State :=
  (readReg c (.data w) s).2.setVar (first + w.val) (readReg c (.data w) s).1

/-- A register read writes the fault field and the count of draws, and nothing else. -/
theorem readReg_frame (c : Configuration) (r : Reg) (s : State) :
    (readReg c r s).2 = { s with fault := (readReg c r s).2.fault, draws := (readReg c r s).2.draws } := by
  have h := busRead_frame c .w32 r.offset s
  rwa [busRead_offset] at h

theorem storeWord_frame (c : Configuration) (first : Nat) (s : State) (w : Fin N) :
    storeWord c first s w =
      { s with vars := (storeWord c first s w).vars, fault := (storeWord c first s w).fault,
               draws := (storeWord c first s w).draws } := by
  rw [storeWord, readReg_frame]
  rfl

/-- Storing neither reads nor writes the program. -/
theorem storeWord_withProgram (c : Configuration) (first : Nat) (s : State) (w : Fin N) (p : List Stmt) :
    storeWord c first (s.withProgram p) w = (storeWord c first s w).withProgram p := by
  have hr := readReg_host c (.data w) s p s.schedule
  rw [storeWord, State.withProgram, hr, storeWord, readReg_frame c (.data w) s]
  rfl

theorem performs_read_data (first : Nat) (w : Fin N) :
    Performs (rd (.data (w.castLE (by decide))) (first + w.val)) fun s => storeWord Config.chip.cfg first s w where
  step s rest hb hs := by
    have hd := busRead_data Config.chip.cfg w (s.withProgram rest)
    refine (step_read (off := dataOffset w) hb hs).trans ?_
    rw [hd, ← storeWord_withProgram]
    rfl
  busy s := by rw [storeWord_frame]; rfl
  schedule s := by rw [storeWord_frame]

variable {c : Configuration} {first : Nat} {s t u : State} {w : Fin N}

theorem storeWord_written (hb : s.busy = false) (h : s.dataWritten[w] = true) :
    storeWord c first s w = s.setVar (first + w.val) ((s.data[w]).setWidth 32) := by
  rw [storeWord, readReg_data_written (by simp [hb]) h]

theorem storeWord_unwritten (hb : s.busy = false) (h : ¬ s.dataWritten[w] = true) :
    storeWord c first s w =
      { s with draws := s.draws + 1, fault := some (s.fault.getD .unwrittenRead),
               vars := assign (first + w.val) ((Config.draw s.draws).setWidth 32) s.vars } := by
  rw [storeWord, readReg_data_unwritten (by simp [hb]) h, readFree_unwritten]
  rfl

/-- Every one of the words `ws` of DATA has been written. -/
abbrev WordsWritten (s : State) (ws : List (Fin N)) : Prop := ∀ w ∈ ws, s.dataWritten[w] = true

/-- What storing the words `ws` of DATA has made of `s`: it writes the variables of those words, and the fault field and
the count of draws where one of them was never written (R71, R220). -/
structure Stored (first : Nat) (ws : List (Fin N)) (s t : State) : Prop where
  frame : t = { s with vars := t.vars, fault := t.fault, draws := t.draws }
  value : ∀ w ∈ ws, ∃ d : Word, t.var (first + w.val) = some (d.setWidth 32) ∧
    (s.dataWritten[w] = true → d = s.data[w])
  kept : ∀ m : Nat, (∀ w ∈ ws, m ≠ first + w.val) → t.var m = s.var m
  fault : t.fault = if WordsWritten s ws then s.fault else some (s.fault.getD .unwrittenRead)
  draws : WordsWritten s ws → t.draws = s.draws

theorem Stored.nil : Stored first [] s s := by
  constructor <;> simp

/-- Storing one word of an idle block. -/
theorem storeWord_stored (c : Configuration) (first : Nat) (w : Fin N) (hb : s.busy = false) :
    Stored first [w] s (storeWord c first s w) := by
  have hone : WordsWritten s [w] ↔ s.dataWritten[w] = true := List.forall_mem_singleton
  by_cases h : s.dataWritten[w] = true
  · rw [storeWord_written hb h]
    exact
      { frame := rfl
        value := List.forall_mem_singleton.mpr ⟨s.data[w], s.setVar_var _ _, fun _ => rfl⟩
        kept := fun m hm => s.setVar_var_of_ne _ (hm w (List.mem_singleton_self w))
        fault := (if_pos (hone.mpr h)).symm
        draws := fun _ => rfl }
  · rw [storeWord_unwritten hb h]
    exact
      { frame := rfl
        value := List.forall_mem_singleton.mpr ⟨_, s.setVar_var _ _, fun h' => absurd h' h⟩
        kept := fun m hm => s.setVar_var_of_ne _ (hm w (List.mem_singleton_self w))
        fault := (if_neg (mt hone.mp h)).symm
        draws := fun h' => absurd (hone.mp h') h }

/-- Storing a first word and then others; the others may store the first word again. -/
theorem Stored.cons {ws : List (Fin N)} (h : Stored first [w] s t) (h' : Stored first ws t u) :
    Stored first (w :: ws) s u := by
  have hdata : t.data = s.data := (congrArg State.data h.frame :)
  have hmarks : t.dataWritten = s.dataWritten := (congrArg State.dataWritten h.frame :)
  have hvalue := h'.value
  have hfault := h'.fault
  have hdraws := h'.draws
  simp only [hdata, hmarks, WordsWritten] at hvalue hfault hdraws
  refine
    { frame := by rw [h'.frame, h.frame]
      value := fun v hv => ?_
      kept := fun m hm => ?_
      fault := ?_
      draws := fun hm => ?_ }
  · by_cases hmem : v ∈ ws
    · exact hvalue v hmem
    · obtain rfl : v = w := (List.mem_cons.mp hv).resolve_right hmem
      rw [h'.kept (first + v.val) fun x hx he => hmem (Fin.ext (Nat.add_left_cancel he) ▸ hx)]
      exact h.value v (List.mem_singleton_self v)
  · obtain ⟨hw, hws⟩ := List.forall_mem_cons.mp hm
    exact (h'.kept m hws).trans (h.kept m (List.forall_mem_singleton.mpr hw))
  · rw [hfault, h.fault]
    simp only [WordsWritten, List.forall_mem_cons]
    by_cases hw : s.dataWritten[w] = true <;> simp [hw]
  · obtain ⟨hw, hws⟩ := List.forall_mem_cons.mp hm
    exact (hdraws hws).trans (h.draws (List.forall_mem_singleton.mpr hw))

/-- Storing several words of an idle block, in their order. -/
theorem foldl_storeWord_stored (c : Configuration) (first : Nat) (ws : List (Fin N)) (hb : s.busy = false) :
    Stored first ws s (ws.foldl (storeWord c first) s) := by
  induction ws generalizing s with
  | nil => exact .nil
  | cons w ws ih =>
    have hw := storeWord_stored c first w hb
    exact hw.cons (ih ((congrArg State.busy hw.frame).trans hb))

/-- STOREBLOCK on an idle block (R71). -/
theorem run_storeBlock {rest : List Stmt} (hb : s.busy = false) (hs : s.schedule = [])
    (hp : s.program = storeBlock first ++ rest) :
    ∃ t : State, Stored first (List.finRange N) s t ∧ Sys2Proof.core.run N s = .next (t.withProgram rest) :=
  ⟨_, foldl_storeWord_stored Config.chip.cfg first _ hb, run_file_of_performs (performs_read_data first) hb hs hp⟩

theorem wordsWritten_all : WordsWritten s (List.finRange N) ↔ ∀ w : Fin N, s.dataWritten[w] = true :=
  forall_congr' fun w => imp_iff_right (List.mem_finRange w)

/-- Settles O43, by the effects of the three runs of statements. -/
theorem loadingABlockAndAKey : Obligations.LoadingABlockAndAKey := by
  intro b s rest hb hs
  refine ⟨run_loadBlock hb hs, run_loadKey hb hs, fun first hp => ?_⟩
  obtain ⟨t, ht, hrun⟩ := run_storeBlock hb hs hp
  refine ⟨t.withProgram rest, hrun, ?_, fun w => ht.value w (List.mem_finRange w), fun m hm => ?_, ?_⟩
  · exact congrArg (State.withProgram · rest) ht.frame
  · exact ht.kept m fun w _ => by omega
  · have hfault := ht.fault
    split
    · next hall =>
      have hall := wordsWritten_all.mpr hall
      exact ⟨hfault.trans (if_pos hall), ht.draws hall⟩
    · next hall => exact hfault.trans (if_neg (mt wordsWritten_all.mp hall))

end Sys2Proof.Machine
end

section
/-! What the host cannot do to a running operation (spec/20_memory.md R67 (a), spec/43_encrypt_decrypt.md R197). -/

namespace Sys2Proof.Machine

variable {c : Configuration} {s t : State}

/-- A running operation: DATA and its marks, KEY, ROUNDS, KEY_VALID and the sequencer position. -/
def State.operation (s : State) : Block × Marks × Block × Byte × Bool × Seq :=
  (s.data, s.dataWritten, s.key, s.rounds, s.keyValid, s.seq)

/-- No register write changes a running operation: a DATA write and a command are dropped with Error(Busy). -/
theorem registerEffect_operation {off : Byte} {v : BusWord} (h : RegisterEffect c off v s t) (hb : s.busy = true) :
    t.operation = s.operation := by
  cases h with
  | ignored _ h => rw [h]
  | status _ h => rw [h]; rfl
  | keyin w _ h => rw [h]; rfl
  | data w _ hidle _ => exact absurd hb (by simp [hidle])
  | dropped _ e h => simp [h, State.operation]
  | command _ hidle _ _ _ => exact absurd hb (by simp [hidle])

theorem blockEffect_operation (h : BlockEffect c s t) (hb : s.busy = true) (ht : turnOf s = some .host) :
    t.operation = s.operation := by
  cases h with
  | same h _ => exact (congrArg State.operation h :)
  | register off v rest _ _ h => exact registerEffect_operation (s := s.turnUsed.withProgram rest) h hb
  | engine he _ _ => cases ht.symm.trans he
  | reset he _ => cases ht.symm.trans he

/-- Settles O53: of what a step does to the block, a host's move on a busy block leaves the operation alone. -/
theorem hostCannotDisturbAnOperation : Obligations.HostCannotDisturbAnOperation := by
  intro s t hb ht h
  have ho := blockEffect_operation (stepEffect_block (step_next h)) hb ht
  simpa only [State.operation, Prod.mk.injEq] using ho

end Sys2Proof.Machine
end

section
/-! The engine's run of an operation (spec/43_encrypt_decrypt.md R191 to R195): it is busy for 4R + 1 steps, which
compute the whole-block functions. -/

namespace Sys2Proof.Machine

variable {c : Configuration} {s t u : State}

/-- The engine is busy for `n` steps, which lead from `s` to `t`. -/
structure EngineRun (c : Configuration) (n : Nat) (s t : State) : Prop where
  busy : ∀ i < n, (engineSteps c i s).busy = true
  result : engineSteps c n s = t

/-- Two runs in a row. -/
theorem EngineRun.trans {m n : Nat} (h : EngineRun c m s t) (h' : EngineRun c n t u) : EngineRun c (m + n) s u where
  busy i hi := by
    by_cases him : i < m
    · exact h.busy i him
    · obtain ⟨k, rfl⟩ := Nat.exists_eq_add_of_le (Nat.le_of_not_lt him)
      rw [engineSteps_add, h.result]
      exact h'.busy k (by omega)
  result := by rw [engineSteps_add, h.result, h'.result]

/-- The engine has run through layers up to position `q`, with `S` in DATA (R21, R193). -/
def State.ran (s : State) (S : Block) (q : Seq) : State :=
  { s with data := S, dataWritten := .replicate N true, seq := q, done := s.done || q.isIdle }

@[simp] theorem State.ran_data (s : State) (S : Block) (q : Seq) : (s.ran S q).data = S := rfl
@[simp] theorem State.ran_key (s : State) (S : Block) (q : Seq) : (s.ran S q).key = s.key := rfl
@[simp] theorem State.ran_rounds (s : State) (S : Block) (q : Seq) : (s.ran S q).rounds = s.rounds := rfl

/-- An operation that goes on from a position before its end. -/
theorem State.ran_ran {q : Seq} (hq : q ≠ .idle) (s : State) (S T : Block) (r : Seq) :
    (s.ran S q).ran T r = s.ran T r := by
  have hi : q.isIdle = false := Bool.eq_false_iff.mpr (mt (isIdle_iff q).mp hq)
  simp [State.ran, hi]

/-- The first layer of a run. -/
theorem engineRun_first {q : Seq} {l : Layer} (hq : s.seq = q) (hl : layerAt s.rounds.toNat q = some l) :
    EngineRun c 1 s (s.ran (l.apply c s.key s.data) (nextSeq s.rounds.toNat q)) where
  busy i hi := by
    obtain rfl : i = 0 := by omega
    rw [busy_iff]
    rintro (hidle : s.seq = .idle)
    cases ((layerAt_eq_none_iff s.rounds.toNat q).mpr (hq.symm.trans hidle)).symm.trans hl
  result := by
    subst hq
    exact engineStep_of_layer c hl

/-- One layer more. -/
theorem EngineRun.layer {n : Nat} {S : Block} {q : Seq} {l : Layer} (h : EngineRun c n s (s.ran S q))
    (hl : layerAt s.rounds.toNat q = some l) :
    EngineRun c (n + 1) s (s.ran (l.apply c s.key S) (nextSeq s.rounds.toNat q)) := by
  have hq : q ≠ .idle := fun h => by simp [h, layerAt] at hl
  have h1 := engineRun_first (c := c) (s := s.ran S q) rfl hl
  rw [State.ran_ran hq] at h1
  exact h.trans h1

/-- The four layers of an encryption round (R180, R191). -/
theorem engineRun_encRound {i : Nat} (hq : s.seq = .enc i .erc) :
    EngineRun c 4 s
      (s.ran (encRound c s.key i s.data) (if i + 1 < s.rounds.toNat then .enc (i + 1) .erc else .idle)) :=
  (((engineRun_first hq rfl).layer rfl).layer rfl).layer rfl

/-- The four layers of a decryption round (R181, R192). -/
theorem engineRun_decRound {i : Nat} (hq : s.seq = .dec i .dkey) :
    EngineRun c 4 s
      (s.ran (decRound c s.key s.rounds.toNat i s.data)
        (if i + 1 < s.rounds.toNat then .dec (i + 1) .dkey else .dec s.rounds.toNat .dkf)) :=
  (((engineRun_first hq rfl).layer rfl).layer rfl).layer rfl

/-- The rounds of an encryption that are left at round `i`. -/
theorem engineRun_encRounds {n i : Nat} (hq : s.seq = .enc i .erc) (hn : i + (n + 1) = s.rounds.toNat) :
    EngineRun c (4 * (n + 1)) s (s.ran (encRounds c s.key (n + 1) i s.data) .idle) := by
  induction n generalizing s i with
  | zero =>
    have h := engineRun_encRound (c := c) hq
    rwa [if_neg (by omega)] at h
  | succ n ih =>
    have h := engineRun_encRound (c := c) hq
    rw [if_pos (by omega)] at h
    have h' := ih (s := s.ran (encRound c s.key i s.data) (.enc (i + 1) .erc)) rfl (by rw [State.ran_rounds]; omega)
    rw [State.ran_ran (by simp)] at h'
    rw [(by omega : 4 * (n + 1 + 1) = 4 + 4 * (n + 1))]
    exact h.trans h'

/-- The rounds of a decryption that are left at round `i`, up to the final AddKey. -/
theorem engineRun_decRounds {n i : Nat} (hq : s.seq = .dec i .dkey) (hn : i + (n + 1) = s.rounds.toNat) :
    EngineRun c (4 * (n + 1)) s
      (s.ran (decRounds c s.key s.rounds.toNat (n + 1) i s.data) (.dec s.rounds.toNat .dkf)) := by
  induction n generalizing s i with
  | zero =>
    have h := engineRun_decRound (c := c) hq
    rwa [if_neg (by omega)] at h
  | succ n ih =>
    have h := engineRun_decRound (c := c) hq
    rw [if_pos (by omega)] at h
    have h' := ih (s := s.ran (decRound c s.key s.rounds.toNat i s.data) (.dec (i + 1) .dkey)) rfl
      (by rw [State.ran_rounds]; omega)
    rw [State.ran_ran (by simp)] at h'
    rw [(by omega : 4 * (n + 1 + 1) = 4 + 4 * (n + 1))]
    exact h.trans h'

/-- A completed operation (R193). -/
theorem State.ran_idle (s : State) (S : Block) :
    s.ran S .idle = { s with data := S, dataWritten := .replicate N true, seq := .idle, done := true } := by
  simp [State.ran, Seq.isIdle]

/-- The whole of an encryption (R180, R194, R195). -/
theorem engineRun_encrypt (hq : s.seq = .enc 0 .ek0) (hR : 1 ≤ s.rounds.toNat) :
    EngineRun c (4 * s.rounds.toNat + 1) s (s.ran (encryptBlock c s.key s.rounds.toNat s.data) .idle) := by
  obtain ⟨n, hn⟩ := Nat.exists_eq_add_of_le' hR
  have h := engineRun_first (c := c) hq rfl
  have h' := engineRun_encRounds (c := c) (n := n) (s := s.ran (addKey s.key s.data) (.enc 0 .erc)) rfl
    (by rw [State.ran_rounds]; omega)
  rw [State.ran_ran (by simp), State.ran_key, State.ran_data, ← hn] at h'
  rw [Nat.add_comm]
  exact h.trans h'

/-- The whole of a decryption (R181, R184, R194, R195). -/
theorem engineRun_decrypt (hq : s.seq = .dec 0 .dkey) (hR : 1 ≤ s.rounds.toNat) :
    EngineRun c (4 * s.rounds.toNat + 1) s (s.ran (decryptBlock c s.key s.rounds.toNat s.data) .idle) := by
  obtain ⟨n, hn⟩ := Nat.exists_eq_add_of_le' hR
  have h := engineRun_decRounds (c := c) (n := n) hq (by omega)
  rw [← hn] at h
  exact h.layer rfl

/-- An operation that has just been started runs to its result (R194). -/
theorem engineRun_operation {S : Block} (hR : 1 ≤ s.rounds.toNat)
    (h : (s.seq = .enc 0 .ek0 ∧ S = encryptBlock c s.key s.rounds.toNat s.data) ∨
      (s.seq = .dec 0 .dkey ∧ S = decryptBlock c s.key s.rounds.toNat s.data)) :
    EngineRun c (4 * s.rounds.toNat + 1) s (s.ran S .idle) := by
  rcases h with ⟨hq, rfl⟩ | ⟨hq, rfl⟩
  · exact engineRun_encrypt hq hR
  · exact engineRun_decrypt hq hR
end Sys2Proof.Machine
end

section
/-! POLL: it stays while BUSY is 1, and under every schedule without a reset it outlasts the operation
(spec/20_memory.md R74, R75). The engine's run and the host's polling do not touch each other's part of the state, so the two can be
counted apart: the turns of the schedule, and the engine steps that are left. -/

namespace Sys2Proof.Machine

/-- The state with its host part (the program, the variables and the schedule) replaced. -/
def State.withHost (s : State) (p : List Stmt) (vs : List (Nat × BusWord)) (ts : List Turn) : State :=
  { s with program := p, vars := vs, schedule := ts }

variable {c : Configuration} {s s' t u : State} {v : Nat} {rest : List Stmt}

/-- The engine's run does not depend on the host part, and keeps it. -/
theorem EngineRun.withHost {n : Nat} (h : EngineRun c n s t) (p : List Stmt) (vs : List (Nat × BusWord))
    (ts : List Turn) : EngineRun c n (s.withHost p vs ts) (t.withHost p vs ts) where
  busy i hi := (congrArg State.busy (engineSteps_host c i s p vs ts)).trans (h.busy i hi)
  result := (engineSteps_host c n s p vs ts).trans (congrArg (State.withHost · p vs ts) h.result)

/-- A busy engine has a step left, and after it one less. -/
theorem EngineRun.pred {n : Nat} (h : EngineRun c (n + 1) s t) : s.busy = true ∧ EngineRun c n (engineStep c s) t :=
  ⟨h.busy 0 n.succ_pos, fun i hi => h.busy (i + 1) (Nat.succ_lt_succ hi), h.result⟩

/-- An idle engine has no step left. -/
theorem EngineRun.eq_of_idle {n : Nat} (h : EngineRun c n s t) (hb : s.busy = false) : s = t := by
  cases n with
  | zero => exact h.result
  | succ n => cases hb.symm.trans h.pred.1

/-! ### One turn of the host -/

/-- The effect of a POLL: STATUS in its variable, and past it on an idle block. -/
def State.polled (s : State) (v : Nat) (rest : List Stmt) : State :=
  s.withHost (if s.busy = true then s.program else rest) (assign v s.statusValue s.vars) s.schedule.tail

theorem step_poll (ht : turnOf s = some .host) (hp : s.program = .poll v :: rest) :
    step s = .next (s.polled v rest) := by
  rw [step_of_turn ht]
  refine (hostMove_poll (s := s.turnUsed) hp).trans ?_
  rw [State.turnUsed_busy, State.polled]
  cases s.busy <;> rfl

theorem polled_var (s : State) (v : Nat) (rest : List Stmt) : (s.polled v rest).var v = some s.statusValue :=
  lookup_assign v s.statusValue s.vars

theorem polled_var_of_ne (s : State) {v m : Nat} (rest : List Stmt) (h : m ≠ v) :
    (s.polled v rest).var m = s.var m := lookup_assign_of_ne s.statusValue s.vars h

/-! ### The run of a POLL -/

/-- A run of `n` steps in which a POLL waits, and after which it has ended with BUSY read as 0, the block in the state
`e`. -/
structure PollRun (v : Nat) (rest : List Stmt) (n : Nat) (s e t : State) : Prop where
  run : Sys2Proof.core.run n s = .next t
  ended : t = e.withHost rest t.vars t.schedule
  value : ∃ x : BusWord, t.var v = some x ∧ x.getLsbD 0 = false
  waits : ∀ m < n, ∃ u : State, Sys2Proof.core.run m s = .next u ∧ u.program = s.program

/-- On the host's turn the POLL of an idle block ends. -/
theorem pollRun_of_idle (ht : turnOf s = some .host) (hp : s.program = .poll v :: rest) (hb : s.busy = false) :
    PollRun v rest 1 s s (s.polled v rest) where
  run := run_succ_of_next (step_poll ht hp)
  ended := by simp [State.polled, hb, State.withHost]
  value := ⟨s.statusValue, polled_var s v rest, by rw [statusValue_bit_zero, hb]⟩
  waits m hm := by
    obtain rfl : m = 0 := by omega
    exact ⟨s, rfl, rfl⟩

/-- A step before the POLL ends keeps the program, and the block the POLL ends in. -/
theorem PollRun.cons {n : Nat} {e : State} {p : List Stmt} {vs : List (Nat × BusWord)} {ts : List Turn}
    (hstep : step s = .next s') (hp : s'.program = s.program) (h : PollRun v rest n s' (e.withHost p vs ts) t) :
    PollRun v rest (n + 1) s e t where
  run := (run_succ_of_next hstep).trans h.run
  ended := h.ended
  value := h.value
  waits m hm := by
    cases m with
    | zero => exact ⟨s, rfl, rfl⟩
    | succ m =>
      obtain ⟨u, hu, hup⟩ := h.waits m (by omega)
      exact ⟨u, (run_succ_of_next hstep).trans hu, hup.trans hp⟩

/-- The POLL next in the program of `s` ends within `k` steps, with the block in the state `e`. -/
def PollEnds (v : Nat) (rest : List Stmt) (k : Nat) (s e : State) : Prop :=
  ∃ (n : Nat) (t : State), n ≤ k ∧ PollRun v rest n s e t

theorem PollEnds.mono {k l : Nat} {e : State} (h : PollEnds v rest k s e) (hkl : k ≤ l) : PollEnds v rest l s e := by
  obtain ⟨n, t, hn, h⟩ := h
  exact ⟨n, t, hn.trans hkl, h⟩

theorem PollEnds.cons {k : Nat} {e : State} {p : List Stmt} {vs : List (Nat × BusWord)} {ts : List Turn}
    (hstep : step s = .next s') (hp : s'.program = s.program) (h : PollEnds v rest k s' (e.withHost p vs ts)) :
    PollEnds v rest (k + 1) s e := by
  obtain ⟨n, t, hn, h⟩ := h
  exact ⟨n + 1, t, Nat.succ_le_succ hn, h.cons hstep hp⟩

@[simp] theorem engineStep_program (c : Configuration) (s : State) : (engineStep c s).program = s.program := by
  unfold engineStep; split <;> rfl
@[simp] theorem engineStep_schedule (c : Configuration) (s : State) : (engineStep c s).schedule = s.schedule := by
  unfold engineStep; split <;> rfl

theorem step_engine (ht : turnOf s = some .engine) : step s = .next (engineStep Config.chip.cfg s.turnUsed) :=
  step_of_turn ht

/-- Using a turn changes the host part only, so the engine's run is the same. -/
theorem EngineRun.turnUsed {n : Nat} {e : State} (h : EngineRun c n s e) :
    EngineRun c n s.turnUsed (e.withHost s.program s.vars s.schedule.tail) :=
  h.withHost s.program s.vars s.schedule.tail

/-- After the engine's turn a running engine has a step less left, and an idle one still none. -/
theorem EngineRun.engineTurn {n : Nat} {e : State} (h : EngineRun c n s e) (he : e.busy = false) :
    EngineRun c (n - 1) (engineStep c s.turnUsed) (e.withHost s.program s.vars s.schedule.tail) := by
  cases n with
  | zero =>
    obtain rfl : s = e := h.result
    rw [engineStep_idle c ((busy_eq_false_iff s.turnUsed).mp he)]
    exact h.turnUsed
  | succ n => exact h.turnUsed.pred.2

/-- On the engine's turn the POLL goes on waiting. -/
theorem PollEnds.engineTurn {k : Nat} {e : State} (ht : turnOf s = some .engine)
    (h : PollEnds v rest k (engineStep Config.chip.cfg s.turnUsed) (e.withHost s.program s.vars s.schedule.tail)) :
    PollEnds v rest (k + 1) s e :=
  h.cons (step_engine ht) (engineStep_program _ _)

/-- With the schedule used up, the engine runs to the end, and then the POLL ends. -/
theorem pollEnds_of_no_schedule {j : Nat} {e : State} (hs : s.schedule = []) (hp : s.program = .poll v :: rest)
    (h : EngineRun Config.chip.cfg j s e) (he : e.busy = false) : PollEnds v rest (j + 1) s e := by
  induction j generalizing s e with
  | zero =>
    obtain rfl : s = e := h.result
    exact ⟨1, _, le_rfl, pollRun_of_idle (turnOf_host hs he hp) hp he⟩
  | succ j ih =>
    have ht := turnOf_busy hs h.pred.1
    exact .engineTurn ht (ih (by simp [hs]) ((engineStep_program _ _).trans hp) (h.engineTurn he) he)

/-- Turn by turn of a schedule without a reset: the host's turn polls, and the engine's takes a step where one is
left. -/
theorem pollEnds {ts : List Turn} {j : Nat} {e : State} (hs : s.schedule = ts) (hr : .reset ∉ ts)
    (hp : s.program = .poll v :: rest) (h : EngineRun Config.chip.cfg j s e) (he : e.busy = false) :
    PollEnds v rest (ts.length + (j + 1)) s e := by
  induction ts generalizing s j e with
  | nil =>
    rw [List.length_nil, Nat.zero_add]
    exact pollEnds_of_no_schedule hs hp h he
  | cons x ts ih =>
    have ht : turnOf s = some x := by simp [turnOf, hs]
    have htail : s.schedule.tail = ts := by simp [hs]
    have hr' : .reset ∉ ts := fun hm => hr (List.mem_cons_of_mem x hm)
    rw [List.length_cons, Nat.succ_add]
    cases x with
    | reset => exact absurd List.mem_cons_self hr
    | host =>
      cases hb : s.busy with
      | true =>
        have hpoll : (s.polled v rest).program = s.program := if_pos hb
        have hrun := h.withHost (s.polled v rest).program (s.polled v rest).vars s.schedule.tail
        exact (ih (s := s.polled v rest) htail hr' (hpoll.trans hp) hrun he).cons (step_poll ht hp) hpoll
      | false =>
        obtain rfl := h.eq_of_idle hb
        exact ⟨1, _, by omega, pollRun_of_idle ht hp hb⟩
    | engine =>
      have hend := ih (s := engineStep Config.chip.cfg s.turnUsed) ((engineStep_schedule _ _).trans htail) hr'
        ((engineStep_program _ _).trans hp) (h.engineTurn he) he
      exact .engineTurn ht (hend.mono (by omega))

/-- Settles O44. The POLL's own step is its effect; and from the start of an operation the engine's run is 4R + 1 steps,
after which the POLL ends. -/
theorem pollWaitsForTheResult : Obligations.PollWaitsForTheResult := by
  refine ⟨fun s v rest ht hp => ?_, fun s v rest result hr hR hp hstart => ?_⟩
  · exact ⟨s.polled v rest, step_poll ht hp, polled_var s v rest, fun m hm => polled_var_of_ne s rest hm, rfl⟩
  · obtain ⟨n, t, hn, hrun⟩ := pollEnds rfl hr hp (engineRun_operation hR hstart) rfl
    refine ⟨n, t, hn, hrun.run, hrun.ended.trans ?_, hrun.value, hrun.waits⟩
    rw [State.ran_idle]
    rfl

end Sys2Proof.Machine
end

section
/-! The command word and its decoder (spec/30_encoding.md R90 to R98). A word is its five fields, so a row of R95 matches a
word exactly when the word is the encoding of the row's command; the rows' OP fields differ, so the row is unique. -/

namespace Sys2Proof.Machine

/-! ### The fields of a word -/

/-- The five fields are all of a word (R90). -/
theorem word_ext_iff (a b : BusWord) :
    a = b ↔ opField a = opField b ∧ rsv0Field a = rsv0Field b ∧ rndField a = rndField b ∧
      lenField a = lenField b ∧ rsv1Field a = rsv1Field b := by
  constructor
  · rintro rfl
    exact ⟨rfl, rfl, rfl, rfl, rfl⟩
  · simp only [opField, rsv0Field, rndField, lenField, rsv1Field, ← BitVec.toNat_inj, BitVec.extractLsb'_toNat,
      Nat.shiftRight_eq_div_pow]
    omega

@[simp] theorem opField_commandWord (len rnd : Byte) (op : BitVec 4) : opField (commandWord len rnd op) = op :=
  (Laws.EncodingFields.commandWord_fields len rnd op).2.2

@[simp] theorem rsv0Field_commandWord (len rnd : Byte) (op : BitVec 4) : rsv0Field (commandWord len rnd op) = 0 :=
  (Laws.EncodingFields.commandWord_fields len rnd op).1

@[simp] theorem rsv1Field_commandWord (len rnd : Byte) (op : BitVec 4) : rsv1Field (commandWord len rnd op) = 0 :=
  (Laws.EncodingFields.commandWord_fields len rnd op).2.1

@[simp] theorem rndField_commandWord (len rnd : Byte) (op : BitVec 4) : rndField (commandWord len rnd op) = rnd := by
  apply BitVec.eq_of_getLsbD_eq
  intro i hi
  interval_cases i <;> simp [commandWord, rndField]

@[simp] theorem lenField_commandWord (len rnd : Byte) (op : BitVec 4) : lenField (commandWord len rnd op) = len := by
  apply BitVec.eq_of_getLsbD_eq
  intro i hi
  interval_cases i <;> simp [commandWord, lenField]

/-- A word is a command word of these operands exactly when its fields say so and its reserved fields are zero. -/
theorem eq_commandWord_iff (word : BusWord) (len rnd : Byte) (op : BitVec 4) :
    word = commandWord len rnd op ↔
      opField word = op ∧ rsv0Field word = 0 ∧ rndField word = rnd ∧ lenField word = len ∧ rsv1Field word = 0 := by
  simp [word_ext_iff word]

/-! ### The rows of R95 -/

/-- A row matches a word exactly when the word is the encoding of the command the row builds of its fields. -/
theorem matches_iff_eq_encode (word : BusWord) {r : OpcodeRow} (hr : r ∈ opcodeRows) :
    word &&& r.mask = r.pattern ↔ word = encode (r.build (lenField word) (rndField word)) := by
  have and_nibble (x : BitVec 4) : x &&& 15#4 = x := BitVec.and_allOnes
  have and_byte (x : Byte) : x &&& 255#8 = x := BitVec.and_allOnes
  simp only [opcodeRows, List.mem_cons, List.not_mem_nil, or_false] at hr
  rcases hr with rfl | rfl | rfl | rfl | rfl <;>
    simp [encode, eq_commandWord_iff, word_ext_iff (_ &&& _), opField, rsv0Field, rndField, lenField, rsv1Field,
      BitVec.extractLsb'_and, and_nibble, and_byte]

/-- Every row fixes the whole OP field, so a word that matches has the row's OP. -/
theorem opField_of_matches {word : BusWord} {r : OpcodeRow} (hr : r ∈ opcodeRows)
    (h : word &&& r.mask = r.pattern) : opField word = opField r.pattern := by
  have hmask : ∀ q ∈ opcodeRows, opField q.mask = BitVec.allOnes 4 := by decide
  have hfield : opField (word &&& r.mask) = opField word &&& opField r.mask := BitVec.extractLsb'_and
  rw [← h, hfield, hmask r hr, BitVec.and_allOnes]

/-- The rows are disjoint, because their OP fields differ (R96). -/
theorem row_unique {word : BusWord} {r q : OpcodeRow} (hr : r ∈ opcodeRows) (hq : q ∈ opcodeRows)
    (h : word &&& r.mask = r.pattern) (h' : word &&& q.mask = q.pattern) : r = q := by
  have hops : (opcodeRows.map fun r => opField r.pattern).Nodup := by decide
  exact List.inj_on_of_nodup_map hops hr hq ((opField_of_matches hr h).symm.trans (opField_of_matches hq h'))

/-- The encoding of a command matches the command's row. -/
theorem exists_row (i : Instr) :
    ∃ r ∈ opcodeRows, r.build (lenField (encode i)) (rndField (encode i)) = i := by
  cases i <;> simp [opcodeRows, encode]

/-! ### The decoder -/

/-- A word that matches a row decodes to the row's command (R96). -/
theorem decode_of_matches {word : BusWord} {r : OpcodeRow} (hr : r ∈ opcodeRows) (h : word &&& r.mask = r.pattern) :
    decode word = .ok (r.build (lenField word) (rndField word)) := by
  unfold decode
  split
  · next q hq =>
    rw [row_unique (List.mem_of_find?_eq_some hq) hr (by simpa using List.find?_some hq) h]
  · next hnone => exact absurd h (by simpa using List.find?_eq_none.mp hnone r hr)

/-- A word that matches no row decodes to no command (R96). -/
theorem decode_of_no_match {word : BusWord} (h : ∀ r ∈ opcodeRows, word &&& r.mask ≠ r.pattern) :
    decode word = .error (undecodable word) := by
  have hnone : opcodeRows.find? (fun r => word &&& r.mask == r.pattern) = none := by simpa using h
  rw [decode, hnone]

/-- The decoder inverts the encoder (R90, R95, R96). -/
theorem decode_eq_ok_iff (word : BusWord) (i : Instr) : decode word = .ok i ↔ word = encode i := by
  constructor
  · intro h
    by_cases hr : ∃ r ∈ opcodeRows, word &&& r.mask = r.pattern
    · obtain ⟨r, hr, hm⟩ := hr
      have hi := (decode_of_matches hr hm).symm.trans h
      injection hi with hi
      rw [← hi]
      exact (matches_iff_eq_encode word hr).mp hm
    · rw [decode_of_no_match (by simpa using hr)] at h
      cases h
  · rintro rfl
    obtain ⟨r, hr, hi⟩ := exists_row i
    rw [decode_of_matches hr ((matches_iff_eq_encode _ hr).mpr (congrArg encode hi).symm), hi]

/-- Settles O2: a row's match is the encoding of its command, and the row is unique. -/
theorem decodeInvertsEncode : Obligations.DecodeInvertsEncode := fun i word _ => decode_eq_ok_iff word i

/-- Settles O1: each worked word is the encoding of its command. -/
theorem workedWordsDecode : Obligations.WorkedWordsDecode := by
  simp only [Obligations.WorkedWordsDecode, decode_eq_ok_iff]
  decide

/-! ### Words that are no command -/

/-- On an idle block the CMD write of a word that is no command raises IllegalCommand (R96, R214). -/
theorem busWrite_cmd_of_error {word : BusWord} {e : Undecodable} (h : decode word = .error e)
    (run : Instr → State → Result) {s : State} (hb : s.busy = false) :
    busWrite run .w32 cmdOffset word s = .next (s.raise .illegalCommand) := by
  refine (busWrite_offset run .cmd word s).trans ?_
  simp [writeReg, issue, hb, h]

/-- Settles O3, from the uniqueness of the row and the two cases of the decoder. -/
theorem decodingIsByMaskAndMatch : Obligations.DecodingIsByMaskAndMatch := by
  refine ⟨rfl, fun word r hr q hq h h' => ?_, fun word r hr h => decode_of_matches hr h, fun word h => ?_⟩
  · rw [row_unique hr hq h h']
  · have herr := decode_of_no_match h
    exact ⟨⟨_, herr⟩, fun s hb => busWrite_cmd_of_error herr exec hb⟩

/-- The words of R94, R97 and R98: a reserved field, a reserved OP or an unused field is not zero. -/
def IllegalWord (word : BusWord) : Prop :=
  rsv0Field word ≠ 0 ∨ rsv1Field word ≠ 0 ∨ 5 ≤ (opField word).toNat ∨
    ((opField word).toNat ≠ 1 ∧ rndField word ≠ 0) ∨
    (((opField word).toNat = 0 ∨ (opField word).toNat = 4) ∧ lenField word ≠ 0)

/-- No encoding is one of them. -/
theorem not_illegalWord_encode (i : Instr) : ¬ IllegalWord (encode i) := by
  cases i <;> simp [IllegalWord, encode]

/-- Every other word is an encoding: its OP names the command, and its operands are the fields. -/
theorem exists_encode_of_not_illegalWord {word : BusWord} (h : ¬ IllegalWord word) : ∃ i, word = encode i := by
  simp only [IllegalWord, not_or, not_and, not_not, not_le] at h
  obtain ⟨hrsv0, hrsv1, hop, hrnd, hlen⟩ := h
  have hword : word = commandWord (lenField word) (rndField word) (opField word) :=
    (eq_commandWord_iff ..).mpr ⟨rfl, hrsv0, rfl, rfl, hrsv1⟩
  generalize opField word = op at *
  have hcases : op = 0 ∨ op = 1 ∨ op = 2 ∨ op = 3 ∨ op = 4 := by bv_omega
  rcases hcases with rfl | rfl | rfl | rfl | rfl
  · exact ⟨.nop, hword.trans (by rw [hrnd (by decide), hlen (by decide), encode])⟩
  · exact ⟨.setup _ _, hword⟩
  · exact ⟨.encrypt (lenField word), hword.trans (by rw [hrnd (by decide), encode])⟩
  · exact ⟨.decrypt (lenField word), hword.trans (by rw [hrnd (by decide), encode])⟩
  · exact ⟨.release, hword.trans (by rw [hrnd (by decide), hlen (by decide), encode])⟩

/-- Settles O4: an illegal word is no encoding, so no command, and every other word is one. -/
theorem illegalWordsAreExactlyThese : Obligations.IllegalWordsAreExactlyThese := by
  intro word s hb
  split
  · next hill =>
    cases h : decode word with
    | error e => exact ⟨⟨e, rfl⟩, busWrite_cmd_of_error h exec hb⟩
    | ok i =>
      rw [(decode_eq_ok_iff word i).mp h] at hill
      exact absurd hill (not_illegalWord_encode i)
  · next hill =>
    obtain ⟨i, hi⟩ := exists_encode_of_not_illegalWord hill
    exact ⟨i, (decode_eq_ok_iff word i).mpr hi⟩

end Sys2Proof.Machine
end

section
/-! The host's WR and RD on its turn, with or without a schedule left (spec/30_encoding.md R100). -/

namespace Sys2Proof.Machine

/-- Receiving writes the variable that receives, where the read has a value (R100; log entry 13). -/
theorem receive_var (s : State) (n : Nat) (x : Option BusWord) : (s.receive n x).var n = x.or (s.var n) := by
  cases x with
  | none => rfl
  | some v => exact s.setVar_var n v

theorem receive_var_of_ne (s : State) {n m : Nat} (x : Option BusWord) (h : m ≠ n) :
    (s.receive n x).var m = s.var m := by
  cases x with
  | none => rfl
  | some v => exact s.setVar_var_of_ne v h

/-- Receiving writes the variables and nothing else. -/
theorem receive_frame (s : State) (n : Nat) (x : Option BusWord) :
    s.receive n x = { s with vars := (s.receive n x).vars } := by
  cases x <;> rfl

/-- On the host's turn a WR is its bus write, past the statement and the turn. -/
theorem step_hostWrite {s : State} {width : Width} {off : Byte} {v : BusWord} {rest : List Stmt}
    (ht : turnOf s = some .host) (hp : s.program = .write width off v :: rest) :
    step s = busWrite exec width off v { s with program := rest, schedule := s.schedule.tail } :=
  (step_of_turn ht).trans (hostMove_write (s := s.turnUsed) hp)

/-- On the host's turn a RD receives the value of its bus read, past the statement and the turn. -/
theorem step_hostRead {s : State} {width : Width} {off : Byte} {n : Nat} {rest : List Stmt}
    (ht : turnOf s = some .host) (hp : s.program = .read width off n :: rest) :
    step s = .next (State.receive
      { (busRead Config.chip.cfg width off s).2 with program := rest, schedule := s.schedule.tail } n
      (busRead Config.chip.cfg width off s).1) := by
  have hread := busRead_host Config.chip.cfg width off s rest s.schedule.tail
  refine ((step_of_turn ht).trans (hostMove_read (s := s.turnUsed) hp)).trans ?_
  rw [State.turnUsed, State.withProgram, hread]

/-- Settles O60. A bus read keeps the variables, so after a RD only the one that receives differs. -/
theorem hostRunsOneStatement : Obligations.HostRunsOneStatement := by
  intro s width off rest ht
  refine ⟨fun v hp => step_hostWrite ht hp, fun n x u hp hread => ?_⟩
  have hstep := step_hostRead ht hp
  have hvars : u.vars = s.vars := by simpa [hread] using busRead_vars Config.chip.cfg width off s
  have hvar : ∀ m, u.var m = s.var m := fun m => congrArg (List.lookup m) hvars
  rw [hread] at hstep
  refine ⟨_, hstep, (receive_var _ n x).trans ?_, fun m hm => (receive_var_of_ne _ x hm).trans (hvar m),
    receive_frame _ n x⟩
  cases x with
  | none => exact hvar n
  | some v => rfl

end Sys2Proof.Machine
end

section
/-! The commands, one by one (spec/40_commands.md R110 to R115). A command is its acceptance checks and then its effect,
so each outcome of the checks is said once, and each command's obligation is read off them. -/

namespace Sys2Proof.Machine

variable {s : State} {len rnd : Byte}

/-! ### The acceptance checks (R214) -/

section Acceptance

variable {needsKey : Bool} {run : State → Result}

theorem whenAccepted_busy (hb : s.busy = true) (l : Option Byte) :
    whenAccepted l needsKey s run = .next (s.raise .busy) :=
  whenAccepted_of_some (if_pos hb)

theorem whenAccepted_wrongLength (hb : s.busy = false) (hl : len.toNat ≠ 2 * N) :
    whenAccepted (some len) needsKey s run = .next (s.raise .invalidLength) := by
  have hlen : lengthOk len = false := Bool.eq_false_iff.mpr (mt (lengthOk_iff len).mp hl)
  exact whenAccepted_of_some (by simp [acceptance, hb, hlen])

theorem whenAccepted_noKey (hb : s.busy = false) (hl : len.toNat = 2 * N) (hk : s.keyValid = false) :
    whenAccepted (some len) true s run = .next (s.raise .noKey) :=
  whenAccepted_of_some (by simp [acceptance, hb, (lengthOk_iff len).mpr hl, hk])

/-- A command that passes the checks runs. -/
theorem whenAccepted_rightLength (hb : s.busy = false) (hl : len.toNat = 2 * N)
    (hk : needsKey = true → s.keyValid = true) : whenAccepted (some len) needsKey s run = run s :=
  whenAccepted_of_none ((acceptance_eq_none_iff _ _ _).mpr ⟨hb, by simp [(lengthOk_iff len).mpr hl], hk⟩)

/-- NOP and RELEASE have no check but Busy. -/
theorem whenAccepted_idle (hb : s.busy = false) : whenAccepted none false s run = run s :=
  whenAccepted_of_none ((acceptance_eq_none_iff _ _ _).mpr ⟨hb, by simp, by simp⟩)

end Acceptance

/-! ### The commands as checks and effects -/

theorem exec_nop (s : State) : exec .nop s = whenAccepted none false s fun s => .next s.complete := rfl

theorem exec_setup (len rnd : Byte) (s : State) :
    exec (.setup len rnd) s = whenAccepted (some len) false s fun s =>
      .next ((s.consume s.keyinWritten).install (contents s.keyin s.keyinWritten s.draws)
        (resolveRounds Config.chip.cfg rnd) (warnsOf Config.chip.cfg rnd)) := rfl

/-- ENCRYPT and DECRYPT with the position they start at (R113, R114). -/
abbrev StartsAt (i : Instr) (len : Byte) (q : Seq) : Prop :=
  (i = .encrypt len ∧ q = .enc 0 .ek0) ∨ (i = .decrypt len ∧ q = .dec 0 .dkey)

/-- ENCRYPT and DECRYPT differ in their start position only. -/
theorem exec_operation {i : Instr} {q : Seq} (h : StartsAt i len q) (s : State) :
    exec i s = whenAccepted (some len) true s fun s => .next (s.takeData.begin q) := by
  rcases h with ⟨rfl, rfl⟩ | ⟨rfl, rfl⟩ <;> rfl

theorem exec_encrypt (len : Byte) (s : State) :
    exec (.encrypt len) s = whenAccepted (some len) true s fun s => .next (s.takeData.begin (.enc 0 .ek0)) :=
  exec_operation (.inl ⟨rfl, rfl⟩) s

theorem exec_decrypt (len : Byte) (s : State) :
    exec (.decrypt len) s = whenAccepted (some len) true s fun s => .next (s.takeData.begin (.dec 0 .dkey)) :=
  exec_operation (.inr ⟨rfl, rfl⟩) s

theorem exec_release (s : State) : exec .release s = whenAccepted none false s fun s => .next s.uninstall := rfl

/-- Every command is dropped while BUSY (R110). -/
theorem exec_busy (i : Instr) (hb : s.busy = true) : exec i s = .next (s.raise .busy) := by
  cases i with
  | nop => rw [exec_nop, whenAccepted_busy hb]
  | setup len rnd => rw [exec_setup, whenAccepted_busy hb]
  | encrypt len => rw [exec_encrypt, whenAccepted_busy hb]
  | decrypt len => rw [exec_decrypt, whenAccepted_busy hb]
  | release => rw [exec_release, whenAccepted_busy hb]

/-! ### The CMD write (R110) -/

/-- A CMD write of a word that decodes to a command is that command, busy or not. -/
theorem busWrite_cmd_of_ok {word : BusWord} {i : Instr} (h : decode word = .ok i) (s : State) :
    busWrite exec .w32 cmdOffset word s = exec i s := by
  refine (busWrite_offset exec .cmd word s).trans ?_
  cases hb : s.busy with
  | true => simp [writeReg, issue, hb, exec_busy i hb]
  | false => simp [writeReg, issue, hb, h]

/-- On an idle block the CMD write of a word that encodes no command raises IllegalCommand (R96). -/
theorem busWrite_cmd_of_ne_encode {word : BusWord} (h : ∀ i, word ≠ encode i) (hb : s.busy = false) :
    busWrite exec .w32 cmdOffset word s = .next (s.raise .illegalCommand) := by
  cases hd : decode word with
  | error e => exact busWrite_cmd_of_error hd exec hb
  | ok i => exact absurd ((decode_eq_ok_iff word i).mp hd) (h i)

/-- The OP field of an encoding names the command (R91). -/
theorem eq_nop_of_opField {i : Instr} (h : opField (encode i) = 0) : i = .nop := by
  cases i <;> simp [encode] at h ⊢

theorem eq_release_of_opField {i : Instr} (h : opField (encode i) = 4) : i = .release := by
  cases i <;> simp [encode] at h ⊢

/-- The reserved fields of an encoding are zero (R94). -/
theorem reserved_encode (i : Instr) : rsv0Field (encode i) = 0 ∧ rsv1Field (encode i) = 0 := by
  cases i <;> simp [encode]

/-- Placing a whole command word. -/
theorem withFetchWord_eq (s : State) (word : BusWord) : s.withFetchWord 32 word.toNat = placeCommand s word := by
  rw [State.withFetchWord, Nat.mod_eq_of_lt word.isLt, BitVec.ofNat_toNat, BitVec.setWidth_eq]

/-- Settles O45: the host's statement is its bus write, and that of a command's word is the command. -/
theorem stepRunsTheDecodedCommand : Obligations.StepRunsTheDecodedCommand := by
  constructor
  · intro s word i rest ht hp hd
    exact (step_hostWrite ht hp).trans (busWrite_cmd_of_ok hd _)
  · intro s word i hd
    rw [withFetchWord_eq]
    exact (step_hostWrite (s := placeCommand s word) rfl rfl).trans (busWrite_cmd_of_ok hd s)

/-! ### NOP and RELEASE -/

/-- Settles O5, by NOP's one check and the OP field of the encodings. -/
theorem nopOnlySetsDone : Obligations.NopOnlySetsDone := by
  refine ⟨fun s hb => ?_, fun s hb => exec_busy .nop hb, rfl, fun word s hop hne hb => ?_⟩
  · exact (exec_nop s).trans (whenAccepted_idle hb)
  · refine busWrite_cmd_of_ne_encode (fun i hi => hne ?_) hb
    subst hi
    rw [eq_nop_of_opField hop]
    rfl

/-- An accepted RELEASE (R115). -/
theorem exec_release_idle (hb : s.busy = false) : exec .release s = .next s.uninstall :=
  (exec_release s).trans (whenAccepted_idle hb)

/-- Settles O9. What RELEASE leaves has no KEY_VALID, which the checks of ENCRYPT and DECRYPT ask for. -/
theorem releaseDestroysTheInstance : Obligations.ReleaseDestroysTheInstance := by
  refine ⟨fun s hb => ⟨exec_release_idle hb, fun t u len ht hu hub hl => ?_⟩, fun s hb => exec_busy .release hb, rfl,
    fun word s hop hne hb => ?_⟩
  · rw [exec_release_idle hb] at ht
    cases ht
    exact ⟨(exec_encrypt len u).trans (whenAccepted_noKey hub hl hu),
      (exec_decrypt len u).trans (whenAccepted_noKey hub hl hu)⟩
  · refine busWrite_cmd_of_ne_encode (fun i hi => hne ?_) hb
    subst hi
    rw [eq_release_of_opField hop]
    rfl

/-! ### SETUP -/

/-- An accepted SETUP (R112). -/
theorem exec_setup_accepted (hb : s.busy = false) (hl : len.toNat = 2 * N) (rnd : Byte) :
    exec (.setup len rnd) s = .next ((s.consume s.keyinWritten).install
      (contents s.keyin s.keyinWritten s.draws) (resolveRounds Config.chip.cfg rnd) (warnsOf Config.chip.cfg rnd)) :=
  (exec_setup len rnd s).trans (whenAccepted_rightLength hb hl nofun)

/-- The condition of WARN as a decision (R144). -/
theorem warnsOf_eq_decide (c : Configuration) (rnd : Byte) :
    warnsOf c rnd = decide (rnd ≠ 0 ∧ (rnd.toNat < c.safeMin ∨ c.safeMax < rnd.toNat)) := by
  rw [Bool.eq_iff_iff, decide_eq_true_iff]
  exact warnsOf_iff c rnd

/-- Settles O6, by the checks of SETUP, and by whether KEYIN has a word that was never written. -/
theorem setupInstallsTheInstance : Obligations.SetupInstallsTheInstance := by
  refine ⟨fun len rnd => (decode_eq_ok_iff _ (.setup len rnd)).mpr rfl, fun word s _ hrsv hb => ?_, fun len rnd s =>
    ⟨exec_busy (.setup len rnd), fun hb hl => ?_, fun hb hl hw => ?_, fun hb hl hw => ?_⟩⟩
  · refine busWrite_cmd_of_ne_encode (fun i hi => ?_) hb
    obtain ⟨h0, h1⟩ := reserved_encode i
    subst hi
    exact hrsv.elim (absurd h0) (absurd h1)
  · exact (exec_setup len rnd s).trans (whenAccepted_wrongLength hb hl)
  · refine ⟨_, exec_setup_accepted hb hl rnd, ?_, fun w hm => contents_written hm⟩
    rw [consume_of_unwritten ((allWritten_eq_false_iff s.keyinWritten).mpr hw), warnsOf_eq_decide]
    rfl
  · have hall := (allWritten_iff s.keyinWritten).mpr hw
    rw [exec_setup_accepted hb hl rnd, consume_of_allWritten hall, contents_of_allWritten hall, warnsOf_eq_decide]
    rfl

/-! ### ENCRYPT and DECRYPT -/

/-- An accepted operation starts on DATA as it finds it. -/
theorem exec_operation_accepted {i : Instr} {q : Seq} (h : StartsAt i len q) (hb : s.busy = false)
    (hl : len.toNat = 2 * N) (hk : s.keyValid = true) : exec i s = .next (s.takeData.begin q) :=
  (exec_operation h s).trans (whenAccepted_rightLength hb hl fun _ => hk)

/-- Taking DATA with a word that was never written records UnwrittenRead (R220). -/
theorem takeData_of_unwritten (h : allWritten s.dataWritten = false) :
    s.takeData = { s with data := contents s.data s.dataWritten s.draws, fault := some (s.fault.getD .unwrittenRead),
                          draws := s.draws + N } := by
  rw [State.takeData, consume_of_unwritten h]

/-- Settles O8, by the checks of an operation, and by whether DATA has a word that was never written. -/
theorem operationsStart : Obligations.OperationsStart := by
  intro len s i q h
  refine ⟨exec_busy i, fun hb hl => ?_, fun hb hl hk => ?_, fun hb hl hk hw => ?_, fun hb hl hk hw => ?_⟩
  · exact (exec_operation h s).trans (whenAccepted_wrongLength hb hl)
  · exact (exec_operation h s).trans (whenAccepted_noKey hb hl hk)
  · refine ⟨_, exec_operation_accepted h hb hl hk, ?_, fun w hm => contents_written hm⟩
    rw [takeData_of_unwritten ((allWritten_eq_false_iff s.dataWritten).mpr hw)]
    rfl
  · rw [exec_operation_accepted h hb hl hk, takeData_of_allWritten ((allWritten_iff s.dataWritten).mpr hw)]
    rfl

end Sys2Proof.Machine
end

section
/-! What a command or a register write leaves alone (spec/40_commands.md R111 to R117). -/

namespace Sys2Proof.Machine

variable {c : Configuration} {s t : State} {i : Instr}

/-! ### The STATUS write and the dropped writes -/

/-- A flag after a write that may clear it, as R116 says it. -/
theorem and_not_eq_ite (flag clear : Bool) : (flag && !clear) = if clear then false else flag := by
  cases clear <;> simp

/-- Settles O15: the register at offset 0x04 is STATUS, and its write clears flag by flag. -/
theorem statusWriteClearsFlags : Obligations.StatusWriteClearsFlags := by
  intro v s
  refine (busWrite_offset exec .status v s).trans ?_
  simp only [writeReg, State.writeStatus, State.clearStatus, and_not_eq_ite]

/-- No two registers share an offset (R61). -/
theorem Reg.offset_injective : Function.Injective Reg.offset := fun r q h =>
  Option.some.inj ((regAt_offset r).symm.trans ((congrArg regAt h).trans (regAt_offset q)))

/-- STATUS is neither CMD nor a DATA word. -/
theorem ne_statusOffset {off : Byte} (ho : off = cmdOffset ∨ ∃ w : Fin N, off = dataOffset w) :
    off ≠ statusOffset := by
  rintro rfl
  rcases ho with h | ⟨w, h⟩
  · cases Reg.offset_injective (a₁ := .status) (a₂ := .cmd) h
  · cases Reg.offset_injective (a₁ := .status) (a₂ := .data w) h

/-- An accepted command raises no Error. -/
theorem effect_err (h : Effect c s t i) : t.err = s.err ∧ t.errovf = s.errovf := by
  cases h with
  | nop h => simp [h]
  | setup len rnd _ h => simp [h]
  | encrypt len _ _ h => simp [h]
  | decrypt len _ _ h => simp [h]
  | release h => simp [h]

/-- A write to another register than STATUS is dropped with one Error, or keeps ERR and ERROVF. -/
theorem registerEffect_err {off : Byte} {v : BusWord} (h : RegisterEffect c off v s t) (ho : off ≠ statusOffset) :
    (∃ e, t = s.raise e) ∨ (t.err = s.err ∧ t.errovf = s.errovf) := by
  cases h with
  | ignored _ h => exact .inr (by simp [h])
  | status hs _ => exact absurd hs ho
  | keyin w _ h => exact .inr (by simp [h])
  | data w _ _ h => exact .inr (by simp [h])
  | dropped _ e h => exact .inl ⟨e, h⟩
  | command _ _ i _ h => exact .inr (effect_err h)

/-- A bus write elsewhere than to STATUS is dropped with one Error, or keeps ERR and ERROVF. -/
theorem writeEffect_err {width : Width} {off : Byte} {v : BusWord} (h : WriteEffect c width off v s t)
    (ho : off ≠ statusOffset) : (∃ e, t = s.raise e) ∨ (t.err = s.err ∧ t.errovf = s.errovf) := by
  cases h with
  | busFault k _ h => exact .inr (by simp [h])
  | register _ h => exact registerEffect_err h ho

/-- Settles O11: of the writes to CMD and DATA, only a dropped one touches ERR or ERROVF. -/
theorem droppedWritesChangeOnlyErr : Obligations.DroppedWritesChangeOnlyErr := by
  intro off v s t ho h hne
  rw [← commandUnder_chip] at h
  rcases writeEffect_err (busWrite_next h) (ne_statusOffset ho) with ⟨e, rfl⟩ | ⟨herr, hovf⟩
  · exact ⟨⟨e, rfl⟩, raise_eq s e⟩
  · exact hne.elim (absurd herr) (absurd hovf)

/-! ### The buffers and the host -/

/-- What no command writes: KEYIN and its marks, the marks of DATA, and the host's program, variables and schedule. -/
def State.untouched (s : State) : Block × Marks × Marks × List Stmt × List (Nat × BusWord) × List Turn :=
  (s.keyin, s.keyinWritten, s.dataWritten, s.program, s.vars, s.schedule)

/-- DATA, the fault field and the count of draws are as before. -/
abbrev SameData (s t : State) : Prop := t.data = s.data ∧ t.fault = s.fault ∧ t.draws = s.draws

/-- What a command leaves of `s` in `t`: the untouched fields, the written DATA words, and all of DATA, the fault field
and the count of draws unless it consumes a word that was never written. -/
structure CommandFrame (i : Instr) (s t : State) : Prop where
  untouched : t.untouched = s.untouched
  written : ∀ w : Fin N, s.dataWritten[w] = true → t.data[w] = s.data[w]
  rest : SameData s t ∨ (t.fault = some (s.fault.getD .unwrittenRead) ∧ Consumes s i ∧
    ((∃ len rnd, i = .setup len rnd) → t.data = s.data))

/-- A command that leaves all of DATA, the fault field and the count of draws alone. -/
theorem CommandFrame.of_sameData (hu : t.untouched = s.untouched) (h : SameData s t) : CommandFrame i s t :=
  ⟨hu, fun _ _ => by rw [h.1], .inl h⟩

/-- The frame of SETUP's effect, whatever it installs. -/
theorem setup_frame (len rnd : Byte) (key : Block) (rounds : Byte) (warns : Bool) :
    CommandFrame (.setup len rnd) s ((s.consume s.keyinWritten).install key rounds warns) := by
  cases hw : allWritten s.keyinWritten with
  | true => exact .of_sameData (by simp [State.untouched]) (by simp [SameData, hw])
  | false => exact ⟨by simp [State.untouched], by simp, .inr ⟨by simp [hw], .setup len rnd hw, by simp⟩⟩

/-- The frame of the start of an operation, for the two commands that start one. -/
theorem begin_frame {q : Seq} (hc : allWritten s.dataWritten = false → Consumes s i)
    (hi : ∀ len rnd, i ≠ .setup len rnd) : CommandFrame i s (s.takeData.begin q) := by
  cases hw : allWritten s.dataWritten with
  | true =>
    rw [takeData_of_allWritten hw]
    exact .of_sameData rfl ⟨rfl, rfl, rfl⟩
  | false =>
    exact ⟨by simp [State.untouched], fun w hm => contents_written hm,
      .inr ⟨by simp [hw], hc hw, fun ⟨len, rnd, h⟩ => absurd h (hi len rnd)⟩⟩

/-- The frame of an accepted command (R111 to R115). -/
theorem effect_frame (h : Effect c s t i) : CommandFrame i s t := by
  cases h with
  | nop h => exact h ▸ .of_sameData rfl ⟨rfl, rfl, rfl⟩
  | setup len rnd _ h => exact h ▸ setup_frame len rnd _ _ _
  | encrypt len _ _ h => exact h ▸ begin_frame (.encrypt len) nofun
  | decrypt len _ _ h => exact h ▸ begin_frame (.decrypt len) nofun
  | release h => exact h ▸ .of_sameData rfl ⟨rfl, rfl, rfl⟩

/-- The frame of a command, accepted or dropped (R212). -/
theorem exec_frame (h : exec i s = .next t) : CommandFrame i s t ∧ (SameData s t ∨ s.busy = false) := by
  rcases exec_next h with ⟨e, rfl⟩ | ⟨hb, h⟩
  · have hd : SameData s (s.raise e) := by simp [SameData]
    exact ⟨.of_sameData (by simp [State.untouched]) hd, .inl hd⟩
  · exact ⟨effect_frame h, .inr hb⟩

/-- Settles O12, by the frame of a command and the words it consumes. -/
theorem commandsLeaveTheBuffersAlone : Obligations.CommandsLeaveTheBuffersAlone := by
  intro i s t h
  obtain ⟨⟨hu, hwritten, hrest⟩, hbusy⟩ := exec_frame h
  simp only [State.untouched, Prod.mk.injEq] at hu
  obtain ⟨hkeyin, hkeyinWritten, hdataWritten, hprogram, hvars, hschedule⟩ := hu
  refine ⟨hkeyin, hkeyinWritten, hdataWritten, hprogram, hvars, hschedule, hwritten, ?_⟩
  rcases hbusy with hd | hb
  · exact .inl hd
  refine hrest.imp_right fun ⟨hfault, hconsumes, hsetup⟩ => ⟨hb, hfault, ?_⟩
  cases hconsumes with
  | setup len rnd hw =>
    exact .inl ⟨⟨len, rnd, rfl⟩, (allWritten_eq_false_iff _).mp hw, hsetup ⟨len, rnd, rfl⟩⟩
  | encrypt len hw => exact .inr ⟨⟨len, .inl rfl⟩, (allWritten_eq_false_iff _).mp hw⟩
  | decrypt len hw => exact .inr ⟨⟨len, .inr rfl⟩, (allWritten_eq_false_iff _).mp hw⟩

end Sys2Proof.Machine
end

section
/-! The results of ENCRYPT and DECRYPT (spec/40_commands.md R113, R114, R118). -/

namespace Sys2Proof.Machine

variable {c : Configuration} {s t u : State}

/-! ### The transformed block -/

/-- Taking DATA writes DATA, the fault field and the count of draws. -/
theorem takeData_frame (s : State) :
    s.takeData = { s with data := s.takeData.data, fault := s.takeData.fault, draws := s.takeData.draws } := by
  cases hw : allWritten s.dataWritten with
  | true => rw [takeData_of_allWritten hw]
  | false => rw [takeData_of_unwritten hw]

/-- An operation started on an idle block and completed (R193). -/
theorem ran_begin_takeData (hb : s.busy = false) (S : Block) (q : Seq) :
    (s.takeData.begin q).ran S .idle =
      { s with data := S, dataWritten := .replicate N true, done := true, fault := s.takeData.fault,
               draws := s.takeData.draws } := by
  rw [State.ran_idle, ← (busy_eq_false_iff s).mp hb, State.begin, takeData_frame]

/-- An accepted operation, and the engine's run of it (R194). -/
theorem exec_engineRun {i : Instr} {len : Byte} {f : Block → Block} (hb : s.busy = false) (hl : len.toNat = 2 * N)
    (hk : s.keyValid = true) (hR : 1 ≤ s.rounds.toNat)
    (h : (i = .encrypt len ∧ f = encryptBlock Config.chip.cfg s.key s.rounds.toNat) ∨
      (i = .decrypt len ∧ f = decryptBlock Config.chip.cfg s.key s.rounds.toNat)) :
    ∃ q, exec i s = .next (s.takeData.begin q) ∧
      EngineRun Config.chip.cfg (4 * s.rounds.toNat + 1) (s.takeData.begin q)
        ((s.takeData.begin q).ran (f s.takeData.data) .idle) := by
  rcases h with ⟨rfl, rfl⟩ | ⟨rfl, rfl⟩
  · refine ⟨_, exec_operation_accepted (.inl ⟨rfl, rfl⟩) hb hl hk, ?_⟩
    simpa using engineRun_encrypt (s := s.takeData.begin (.enc 0 .ek0)) rfl (by simpa using hR)
  · refine ⟨_, exec_operation_accepted (.inr ⟨rfl, rfl⟩) hb hl hk, ?_⟩
    simpa using engineRun_decrypt (s := s.takeData.begin (.dec 0 .dkey)) rfl (by simpa using hR)

/-- Settles O38: the engine's run from the state in which the operation starts. -/
theorem commandsTransformTheBlock : Obligations.CommandsTransformTheBlock := by
  intro len s i f hb hl hk hR h
  obtain ⟨q, hexec, hrun⟩ := exec_engineRun hb hl hk hR h
  have hresult := hrun.result.trans (ran_begin_takeData hb (f s.takeData.data) q)
  refine ⟨_, hexec, fun w hm => contents_written hm, hresult, fun hm => hresult.trans ?_⟩
  have hall := (allWritten_iff s.dataWritten).mpr hm
  rw [takeData_of_allWritten hall, ← marks_eq_of_allWritten hall]

/-! ### Equal inputs -/

/-- What an engine step reads to compute (R196): the sequencer position, DATA, KEY and ROUNDS. -/
structure SameInputs (s u : State) : Prop where
  seq : s.seq = u.seq
  data : s.data = u.data
  key : s.key = u.key
  rounds : s.rounds = u.rounds

/-- An engine step applies the layer of its position to DATA, where it has one. -/
theorem engineStep_data (c : Configuration) (s : State) :
    (engineStep c s).data = (layerAt s.rounds.toNat s.seq).elim s.data fun l => l.apply c s.key s.data := by
  unfold engineStep
  split <;> simp [*]

/-- Equal inputs stay equal by an engine step. -/
theorem SameInputs.engineStep (h : SameInputs s u) (c : Configuration) :
    SameInputs (engineStep c s) (engineStep c u) where
  seq := by rw [engineStep_seq, engineStep_seq, h.seq, h.rounds]
  data := by rw [engineStep_data, engineStep_data, h.seq, h.data, h.key, h.rounds]
  key := by rw [engineStep_key, engineStep_key, h.key]
  rounds := by rw [engineStep_rounds, engineStep_rounds, h.rounds]

theorem SameInputs.engineSteps (h : SameInputs s u) (c : Configuration) (n : Nat) :
    SameInputs (engineSteps c n s) (engineSteps c n u) := by
  induction n generalizing s u with
  | zero => exact h
  | succ n ih => exact ih (h.engineStep c)

theorem exists_startsAt {i : Instr} {len : Byte} (h : i = .encrypt len ∨ i = .decrypt len) :
    ∃ q, StartsAt i len q := by
  rcases h with h | h
  · exact ⟨_, .inl ⟨h, rfl⟩⟩
  · exact ⟨_, .inr ⟨h, rfl⟩⟩

/-- Settles O40: the two operations start with equal inputs, and every engine step keeps them equal. -/
theorem equalInputsGiveEqualResults : Obligations.EqualInputsGiveEqualResults := by
  intro i len s u s' u' hi hsb hub hsk huk hl hs hu hdata hkey hrounds n
  obtain ⟨q, hq⟩ := exists_startsAt hi
  rw [exec_operation_accepted hq hsb hl hsk] at hs
  rw [exec_operation_accepted hq hub hl huk] at hu
  cases hs
  cases hu
  have hstart : (s.takeData.begin q).data = (u.takeData.begin q).data := by
    rcases hdata with ⟨hd, hm⟩ | hd
    · rw [takeData_of_allWritten ((allWritten_iff _).mpr fun w => (hm w).1),
        takeData_of_allWritten ((allWritten_iff _).mpr fun w => (hm w).2)]
      exact hd
    · exact hd
  have hsame : SameInputs (s.takeData.begin q) (u.takeData.begin q) :=
    ⟨rfl, hstart, by simpa using hkey, by simpa using hrounds⟩
  exact ⟨(hsame.engineSteps Config.chip.cfg n).data, (hsame.engineSteps Config.chip.cfg n).seq⟩

end Sys2Proof.Machine
end

section
/-! The round count, and what changes KEY, ROUNDS and KEY_VALID (spec/41_key_schedule.md R143, R144, R149). -/

namespace Sys2Proof.Machine

variable {c : Configuration} {s t : State}

/-! ### The round count -/

/-- The sentinel resolves to DEFAULT_ROUNDS, which an admitted configuration keeps in a byte. -/
theorem resolveRounds_zero_toNat (hc : c.RoundsLaw) : (resolveRounds c 0).toNat = c.defaultRounds := by
  obtain ⟨⟨_, hhi⟩, _⟩ := hc
  rw [resolveRounds, if_pos rfl, BitVec.toNat_ofNat, Nat.mod_eq_of_lt (by omega)]

theorem resolveRounds_of_ne_zero {rnd : Byte} (h : rnd ≠ 0) : resolveRounds c rnd = rnd := if_neg h

/-- The sentinel never warns (R144). -/
theorem warnsOf_zero (c : Configuration) : warnsOf c 0 = false := rfl

/-- Settles O7: an accepted SETUP installs the resolved count, and the laws of the chip's configuration bound it. -/
theorem setupRoundCountInRange : Obligations.SetupRoundCountInRange := by
  intro len rnd s t hb hl h
  rw [exec_setup_accepted hb hl rnd] at h
  cases h
  obtain ⟨_, hlaw, _⟩ := Config.chip.ok
  refine ⟨one_le_resolveRounds Config.chip.ok rnd, Nat.le_of_lt_succ (BitVec.isLt _), ?_, ?_, ?_⟩
  · rintro rfl
    exact resolveRounds_zero_toNat hlaw
  · intro hr
    exact congrArg BitVec.toNat (resolveRounds_of_ne_zero hr)
  · rintro rfl
    rw [State.install_warn, warnsOf_zero, Bool.or_false, State.consume_warn]

/-! ### KEY, ROUNDS and KEY_VALID -/

/-- What SETUP installs and RELEASE takes away: KEY, ROUNDS and KEY_VALID. -/
def State.instanceRegs (s : State) : Block × Byte × Bool := (s.key, s.rounds, s.keyValid)

/-- The commands that install KEY, ROUNDS and KEY_VALID and take them away (R112, R115). -/
inductive ChangesInstance : Instr → Prop where
  | setup (len rnd : Byte) : ChangesInstance (.setup len rnd)
  | release : ChangesInstance .release

/-- Every other accepted command keeps the three registers. -/
theorem effect_instanceRegs {i : Instr} (h : Effect c s t i) :
    t.instanceRegs = s.instanceRegs ∨ ChangesInstance i := by
  cases h with
  | nop h => exact .inl (h ▸ rfl)
  | setup len rnd => exact .inr (.setup len rnd)
  | encrypt len _ _ h => exact .inl (by simp [h, State.instanceRegs])
  | decrypt len _ _ h => exact .inl (by simp [h, State.instanceRegs])
  | release => exact .inr .release

/-- A register write keeps the three registers, unless it issues one of the two commands to an idle block. -/
theorem registerEffect_instanceRegs {off : Byte} {v : BusWord} (h : RegisterEffect c off v s t) :
    t.instanceRegs = s.instanceRegs ∨
      (off = cmdOffset ∧ s.busy = false ∧ ∃ i, decode v = .ok i ∧ ChangesInstance i) := by
  cases h with
  | ignored _ h => exact .inl (h ▸ rfl)
  | status _ h => exact .inl (h ▸ rfl)
  | keyin w _ h => exact .inl (h ▸ rfl)
  | data w _ _ h => exact .inl (h ▸ rfl)
  | dropped _ e h => exact .inl (by simp [h, State.instanceRegs])
  | command ho hb i hd h => exact (effect_instanceRegs h).imp_right fun hi => ⟨ho, hb, i, hd, hi⟩

/-- A step keeps the three registers, unless it is a reset or the host's issue of one of the two commands to an idle
block. -/
theorem blockEffect_instanceRegs (h : BlockEffect c s t) :
    t.instanceRegs = s.instanceRegs ∨ turnOf s = some .reset ∨
      (s.busy = false ∧ ∃ i, hostIssues s i ∧ ChangesInstance i) := by
  cases h with
  | same h _ => exact .inl (congrArg State.instanceRegs h :)
  | register off v rest ht hp h =>
    rcases registerEffect_instanceRegs h with hkept | ⟨rfl, hb, i, hd, hi⟩
    · exact .inl hkept
    · exact .inr (.inr ⟨hb, i, ⟨v, ⟨ht, rest, hp⟩, hd⟩, hi⟩)
  | engine _ _ h => exact .inl (by simp [h, State.instanceRegs])
  | reset ht _ => exact .inr (.inl ht)

/-- Settles O50: a step that changes one of the three registers does not keep them, so it is one of the exceptions of
`blockEffect_instanceRegs`. -/
theorem instanceChangesOnlyBy : Obligations.InstanceChangesOnlyBy := by
  intro s t h hne
  rcases blockEffect_instanceRegs (stepEffect_block (step_next h)) with hkept | hreset | ⟨hb, i, hissue, hi⟩
  · simp only [State.instanceRegs, Prod.mk.injEq] at hkept
    simp [hkept] at hne
  · exact .inl hreset
  · refine .inr ⟨hb, ?_⟩
    cases hi with
    | setup len rnd => exact .inl ⟨len, rnd, hissue⟩
    | release => exact .inr hissue

end Sys2Proof.Machine
end

section
/-! The constant indices of an operation (spec/41_key_schedule.md R146 to R148): one a round, rising in an encryption
and falling in a decryption. -/

namespace Sys2Proof.Machine

variable {c : Configuration} {s t : State}

/-- The indices of a run are those of its parts. -/
theorem indexTrace_add (c : Configuration) (m n : Nat) (s : State) :
    indexTrace c (m + n) s = indexTrace c m s ++ indexTrace c n (engineSteps c m s) := by
  induction m generalizing s with
  | zero => rw [Nat.zero_add]; rfl
  | succ m ih => rw [Nat.succ_add, indexTrace, ih, indexTrace, engineSteps_succ, List.append_assoc]

theorem EngineRun.indexTrace_add {m : Nat} (h : EngineRun c m s t) (n : Nat) :
    indexTrace c (m + n) s = indexTrace c m s ++ indexTrace c n t := by
  rw [Machine.indexTrace_add, h.result]

/-- An encryption round injects one constant, that of index i + 1 (R146). -/
theorem indexTrace_encRound {i : Nat} (c : Configuration) (hq : s.seq = .enc i .erc) :
    indexTrace c 4 s = [i + 1] := by
  simp [indexTrace, engineStep_seq, hq, nextSeq, constantIndex, layerAt]

/-- A decryption round injects one constant, that of index R - i (R147). -/
theorem indexTrace_decRound {i : Nat} (c : Configuration) (hq : s.seq = .dec i .dkey) :
    indexTrace c 4 s = [s.rounds.toNat - i] := by
  simp [indexTrace, engineStep_seq, hq, nextSeq, constantIndex, layerAt]

/-- The indices of the encryption rounds that are left at round `i`. -/
theorem indexTrace_encRounds {n i : Nat} (hq : s.seq = .enc i .erc) (hn : i + (n + 1) = s.rounds.toNat) :
    indexTrace c (4 * (n + 1)) s = List.range' (i + 1) (n + 1) := by
  induction n generalizing s i with
  | zero => exact indexTrace_encRound c hq
  | succ n ih =>
    have hround := engineRun_encRound (c := c) hq
    rw [if_pos (by omega)] at hround
    rw [(by omega : 4 * (n + 1 + 1) = 4 + 4 * (n + 1)), hround.indexTrace_add, indexTrace_encRound c hq,
      ih (i := i + 1) rfl (by rw [State.ran_rounds]; omega), List.range'_succ (n := n + 1)]
    rfl

/-- The indices of the decryption rounds that are left at round `i`: those of the last rounds are the least. -/
theorem indexTrace_decRounds {n i : Nat} (hq : s.seq = .dec i .dkey) (hn : i + (n + 1) = s.rounds.toNat) :
    indexTrace c (4 * (n + 1)) s = (List.range' 1 (n + 1)).reverse := by
  induction n generalizing s i with
  | zero =>
    rw [indexTrace_decRound c hq, ← hn, Nat.add_sub_cancel_left]
    rfl
  | succ n ih =>
    have hround := engineRun_decRound (c := c) hq
    rw [if_pos (by omega)] at hround
    rw [(by omega : 4 * (n + 1 + 1) = 4 + 4 * (n + 1)), hround.indexTrace_add, indexTrace_decRound c hq,
      ih (i := i + 1) rfl (by rw [State.ran_rounds]; omega), List.range'_1_concat (n := n + 1), List.reverse_append,
      ← hn, Nat.add_sub_cancel_left, Nat.add_comm (n + 1) 1]
    rfl

/-- The indices of a whole encryption (R146): the first AddKey injects no constant. -/
theorem indexTrace_encrypt (hq : s.seq = .enc 0 .ek0) (hR : 1 ≤ s.rounds.toNat) :
    indexTrace c (4 * s.rounds.toNat + 1) s = List.range' 1 s.rounds.toNat := by
  obtain ⟨n, hn⟩ := Nat.exists_eq_add_of_le' hR
  have hfirst : indexTrace c 1 s = [] := by simp [indexTrace, hq, constantIndex, layerAt]
  have hrounds := indexTrace_encRounds (c := c) (s := s.ran (addKey s.key s.data) (.enc 0 .erc)) (n := n) rfl
    (by rw [State.ran_rounds]; omega)
  rw [Nat.add_comm, (engineRun_first hq rfl).indexTrace_add, hfirst, hn]
  exact hrounds

/-- The indices of a whole decryption (R147): the final AddKey injects no constant. -/
theorem indexTrace_decrypt (hq : s.seq = .dec 0 .dkey) (hR : 1 ≤ s.rounds.toNat) :
    indexTrace c (4 * s.rounds.toNat + 1) s = (List.range' 1 s.rounds.toNat).reverse := by
  obtain ⟨n, hn⟩ := Nat.exists_eq_add_of_le' hR
  have hrun := engineRun_decRounds (c := c) (n := n) hq (by omega)
  rw [hn, hrun.indexTrace_add, indexTrace_decRounds hq (by omega)]
  exact List.append_nil _

/-- Settles O34: the sequences are those of the two operations, and a round count is a byte. -/
theorem constantIndexSequences : Obligations.ConstantIndexSequences := by
  intro c s hR
  have hrange : (List.range s.rounds.toNat).map (· + 1) = List.range' 1 s.rounds.toNat := by
    simp only [List.range'_eq_map_range, Nat.add_comm]
  rw [hrange]
  refine ⟨fun hq => indexTrace_encrypt hq hR, fun hq => indexTrace_decrypt hq hR, fun hq k hk => ?_⟩
  have hmem : k ∈ List.range' 1 s.rounds.toNat := by
    rcases hq with hq | hq
    · rwa [indexTrace_encrypt hq hR] at hk
    · rwa [indexTrace_decrypt hq hR, List.mem_reverse] at hk
  have hbyte := s.rounds.isLt
  rw [List.mem_range'_1] at hmem
  omega

end Sys2Proof.Machine
end

section
/-! The two layers that XOR: AddKey into every word, AddRC into word 0 (spec/42_round_layers.md R150, R151). -/

namespace Sys2Proof.Machine

theorem xor_xor_same (x y : Word) : x ^^^ y ^^^ y = x := by
  rw [BitVec.xor_assoc, BitVec.xor_self, BitVec.xor_zero]

/-! ### AddKey -/

theorem addKey_zero (S : Block) : addKey (.replicate N 0) S = S := by
  apply block_ext
  intro w
  rw [addKey_getElem, Fin.getElem_fin, Fin.getElem_fin, Vector.getElem_replicate]
  exact BitVec.xor_zero

theorem addKey_addKey (key S : Block) : addKey key (addKey key S) = S := by
  apply block_ext
  intro w
  rw [addKey_getElem, addKey_getElem, xor_xor_same]

/-- Settles O24, word by word. -/
theorem addKeyIsWordwiseXor : Obligations.AddKeyIsWordwiseXor := fun key S =>
  ⟨addKey_getElem key S, addKey_zero S, addKey_addKey key S⟩

/-! ### AddRC -/

theorem addRC_getElem_zero (c : Configuration) (k : Nat) (S : Block) : (addRC c k S)[0] = S[0] ^^^ roundConstant c k :=
  Vector.getElem_set_self _

theorem addRC_getElem_of_ne (c : Configuration) (k : Nat) (S : Block) {w : Fin N} (hw : w.val ≠ 0) :
    (addRC c k S)[w] = S[w] :=
  Vector.getElem_set_ne _ _ hw.symm

/-- A block is what AddRC makes of another when word 0 is and the other words are the other's. -/
theorem addRC_eq_of {c : Configuration} {k : Nat} {S T : Block} (h0 : S[0] ^^^ roundConstant c k = T[0])
    (h : ∀ w : Fin N, w.val ≠ 0 → S[w] = T[w]) : addRC c k S = T := by
  apply block_ext
  intro w
  by_cases hw : w.val = 0
  · obtain rfl : w = 0 := Fin.ext hw
    exact (addRC_getElem_zero c k S).trans h0
  · exact (addRC_getElem_of_ne c k S hw).trans (h w hw)

theorem addRC_addRC (c : Configuration) (k : Nat) (S : Block) : addRC c k (addRC c k S) = S :=
  addRC_eq_of (by rw [addRC_getElem_zero, xor_xor_same]) fun _ hw => addRC_getElem_of_ne c k S hw

theorem addRC_of_roundConstant_eq_zero {c : Configuration} {k : Nat} (h : roundConstant c k = 0) (S : Block) :
    addRC c k S = S :=
  addRC_eq_of (by rw [h]; exact BitVec.xor_zero) fun _ _ => rfl

/-- The round constant of a byte index is that entry of LBox1 (R145). -/
theorem roundConstant_toNat (c : Configuration) (k : Byte) : roundConstant c k.toNat = c.lbox1 k := by
  rw [roundConstant, BitVec.ofNat_toNat, BitVec.setWidth_eq]

/-! ### AddRC commutes neither with Sub nor with Lin -/

/-- A configuration whose diffusion swaps the bytes of a word and whose column substitution adds 1. -/
def swapIncrement : Configuration :=
  { Configuration.plain with
    lbox1 := fun h => h.setWidth 16
    lbox2 := fun l => l.setWidth 16 <<< 8
    ilbox1 := fun h => h.setWidth 16
    ilbox2 := fun l => l.setWidth 16 <<< 8
    sboxCol := fun x => x + 1
    sboxColInv := fun x => x - 1 }

theorem swapIncrement_sbox : swapIncrement.SBoxLaw := fun x => BitVec.add_sub_cancel x 1

/-- Swapping the bytes twice gives the word back. -/
theorem swapIncrement_diffusion : swapIncrement.DiffusionLaw := by
  intro x
  apply BitVec.eq_of_getLsbD_eq
  intro i hi
  interval_cases i <;> simp [swapIncrement]

/-- The counterexamples to commuting have an admitted configuration. -/
theorem swapIncrement_wellFormed : swapIncrement.WellFormed :=
  ⟨by decide, by decide, swapIncrement_sbox, swapIncrement_diffusion⟩

/-- On the zero block, column 0 becomes 2 where the round constant 1 comes before Sub, and 0 where it comes after. -/
theorem exists_addRC_sub_ne : ∃ (c : Configuration) (k : Byte) (S : Block), c.WellFormed ∧ k ≠ 0 ∧
    addRC c k.toNat (sub c S) ≠ sub c (addRC c k.toNat S) :=
  ⟨swapIncrement, 1, .replicate N 0, swapIncrement_wellFormed, by decide, by decide⟩

/-- On the zero block, Lin moves the round constant 1 to the high byte where it comes before Lin, and not where it comes
after. -/
theorem exists_addRC_lin_ne : ∃ (c : Configuration) (k : Byte) (S : Block), c.WellFormed ∧ k ≠ 0 ∧
    addRC c k.toNat (lin c S) ≠ lin c (addRC c k.toNat S) :=
  ⟨swapIncrement, 1, .replicate N 0, swapIncrement_wellFormed, by decide, by decide⟩

/-- Settles O25: the words of AddRC, and a configuration with which it commutes with neither layer. -/
theorem addRCTouchesWordZero : Obligations.AddRCTouchesWordZero := by
  obtain ⟨c₁, k₁, S₁, -, hsub⟩ := exists_addRC_sub_ne
  obtain ⟨c₂, k₂, S₂, -, hlin⟩ := exists_addRC_lin_ne
  refine ⟨fun c k S => ⟨?_, fun _ hw => addRC_getElem_of_ne c _ S hw, addRC_addRC c _ S, fun h => ?_⟩,
    ⟨c₁, k₁, S₁, hsub⟩, ⟨c₂, k₂, S₂, hlin⟩⟩
  · rw [addRC_getElem_zero, roundConstant_toNat]
  · exact addRC_of_roundConstant_eq_zero ((roundConstant_toNat c k).trans h) S

end Sys2Proof.Machine
end

section
/-! The substitution: the columns of a block, and Sub and InvSub on them (spec/42_round_layers.md R153 to R158). -/

namespace Sys2Proof.Machine

/-! ### Columns -/

/-- A number given by its bits, least bit first, is the sum of the powers of 2 of the bits that are 1. -/
theorem ofBits_eq_sum {n : Nat} (f : Fin n → Bool) :
    Nat.ofBits f = ((List.finRange n).map fun i => if f i then 2 ^ i.val else 0).sum := by
  induction n with
  | zero => rfl
  | succ n ih =>
    have hdouble (i : Fin n) : (if f i.succ then 2 ^ i.succ.val else 0) = 2 * if f i.succ then 2 ^ i.val else 0 := by
      simp [Nat.pow_succ', mul_ite]
    rw [Nat.ofBits_succ, ih, List.finRange_succ, List.map_cons, List.sum_cons, List.map_map, ← List.sum_map_mul_left]
    simp only [Function.comp_def, hdouble]
    rw [Nat.add_comm]
    cases f 0 <;> rfl

/-- Settles O26: a column is given by its bits. -/
theorem columnIsTheSumOfItsBits : Obligations.ColumnIsTheSumOfItsBits := fun S j =>
  (BitVec.toNat_ofFnLE _).trans (ofBits_eq_sum fun w : Fin N => (S[w]).getLsbD j)

/-- Settles O27: both layers are column-wise. -/
theorem substitutionActsByColumn : Obligations.SubstitutionActsByColumn := fun c S j =>
  ⟨column_onColumns c.sboxCol S j, column_onColumns c.sboxColInv S j⟩

/-! ### Inverses -/

/-- Words of one width are finitely many, so a left inverse of a function on them is a right inverse too. -/
theorem rightInverse_of_leftInverse {n : Nat} {f g : BitVec n → BitVec n} (h : Function.LeftInverse g f) :
    Function.RightInverse g f := by
  have hfinite : Finite (BitVec n) := .of_injective _ BitVec.toFin_injective
  exact h.rightInverse_of_surjective (Finite.surjective_of_injective h.injective)

theorem onColumns_leftInverse {f g : Column → Column} (h : Function.LeftInverse g f) (S : Block) :
    onColumns g (onColumns f S) = S := by
  rw [onColumns_comp, funext h]
  exact onColumns_id S

/-- Settles O28: column by column, by the S-box law and its other side. -/
theorem substitutionInverse : Obligations.SubstitutionInverse := by
  intro c S hc
  obtain ⟨-, -, hsbox, -⟩ := hc
  exact ⟨onColumns_leftInverse hsbox S, onColumns_leftInverse (rightInverse_of_leftInverse hsbox) S⟩

end Sys2Proof.Machine
end

section
/-! The diffusion: Lin and InvLin, word by word (spec/42_round_layers.md R160 to R164). -/

namespace Sys2Proof.Machine

variable {c : Configuration}

/-! ### The bytes of a word as numbers -/

theorem highByte_eq (x : Word) : highByte x = BitVec.ofNat 8 (x.toNat / 256) := by
  apply BitVec.eq_of_toNat_eq
  rw [highByte, BitVec.extractLsb'_toNat, BitVec.toNat_ofNat, Nat.shiftRight_eq_div_pow]

theorem lowByte_eq (x : Word) : lowByte x = BitVec.ofNat 8 (x.toNat % 256) := by
  apply BitVec.eq_of_toNat_eq
  rw [lowByte, BitVec.extractLsb'_toNat, BitVec.toNat_ofNat, Nat.shiftRight_zero, Nat.mod_mod]

/-- Settles O29: a word of the layer, with its bytes as numbers. -/
theorem diffusionActsByWord : Obligations.DiffusionActsByWord := by
  intro c S w
  rw [lin_getElem, invLin_getElem, linWord, invLinWord, highByte_eq, lowByte_eq]
  exact ⟨rfl, rfl⟩

/-! ### Inverses -/

theorem linWord_invLinWord (h : c.DiffusionLaw) : ∀ x : Word, linWord c (invLinWord c x) = x :=
  rightInverse_of_leftInverse (invLinWord_linWord h)

theorem invLin_lin (h : c.DiffusionLaw) (S : Block) : invLin c (lin c S) = S := by
  apply block_ext
  intro w
  rw [invLin_getElem, lin_getElem, invLinWord_linWord h]

theorem lin_invLin (h : c.DiffusionLaw) (S : Block) : lin c (invLin c S) = S := by
  apply block_ext
  intro w
  rw [lin_getElem, invLin_getElem, linWord_invLinWord h]

/-- Settles O30: word by word, by the diffusion law and its other side. -/
theorem diffusionInverse : Obligations.DiffusionInverse := by
  intro c S hc
  obtain ⟨-, -, -, hdiffusion⟩ := hc
  exact ⟨invLin_lin hdiffusion S, lin_invLin hdiffusion S⟩

/-! ### Linear tables (R162) -/

/-- A table of words that is GF(2)-linear in its index. -/
def LinearTable (T : Byte → Word) : Prop := ∀ a b : Byte, T (a ^^^ b) = T a ^^^ T b

theorem LinearTable.zero {T : Byte → Word} (h : LinearTable T) : T 0 = 0 :=
  (h 0 0).trans BitVec.xor_self

theorem highByte_xor (x y : Word) : highByte (x ^^^ y) = highByte x ^^^ highByte y := BitVec.extractLsb'_xor

theorem lowByte_xor (x y : Word) : lowByte (x ^^^ y) = lowByte x ^^^ lowByte y := BitVec.extractLsb'_xor

theorem linWord_xor (h1 : LinearTable c.lbox1) (h2 : LinearTable c.lbox2) (x y : Word) :
    linWord c (x ^^^ y) = linWord c x ^^^ linWord c y := by
  rw [linWord, highByte_xor, lowByte_xor, h1, h2, linWord, linWord]
  ac_rfl

/-- A word is the XOR of its high half and its low half. -/
theorem halves_xor (x : Word) : (x &&& 0xFF00#16) ^^^ (x &&& 0x00FF#16) = x := by
  apply BitVec.eq_of_getLsbD_eq
  intro i hi
  interval_cases i <;> simp

/-- Settles O31: Lin is linear because the bytes of a word are, and a word is the XOR of its halves. -/
theorem linearTablesGiveLinearDiffusion : Obligations.LinearTablesGiveLinearDiffusion := by
  intro c h1 h2
  refine ⟨linWord_xor h1 h2, LinearTable.zero h1, LinearTable.zero h2, fun x => ?_⟩
  rw [← linWord_xor h1 h2, halves_xor]

end Sys2Proof.Machine
end

section
/-! The engine step (spec/43_encrypt_decrypt.md R190, R196) and the results of its run (R193 to R195). -/

namespace Sys2Proof.Machine

variable {c : Configuration} {s : State}

/-- Settles O35, by the engine's run of an encryption. -/
theorem engineComputesEncryption : Obligations.EngineComputesEncryption := fun _ s hq hR =>
  ⟨(engineRun_encrypt hq hR).busy, (engineRun_encrypt hq hR).result.trans (s.ran_idle _)⟩

/-- Settles O36, by the engine's run of a decryption. -/
theorem engineComputesDecryption : Obligations.EngineComputesDecryption := fun _ s hq hR =>
  ⟨(engineRun_decrypt hq hR).busy, (engineRun_decrypt hq hR).result.trans (s.ran_idle _)⟩

/-- An engine step changes DONE only where it completes an operation (R31, R193). -/
theorem engineStep_done_of_ne (h : (engineStep c s).done ≠ s.done) :
    (engineStep c s).done = true ∧ s.busy = true ∧ (engineStep c s).busy = false := by
  cases hb : s.busy with
  | false => exact absurd (by rw [engineStep_idle c ((busy_eq_false_iff s).mp hb)]) h
  | true =>
    rw [engineStep_done c hb] at h ⊢
    cases hb' : (engineStep c s).busy with
    | true => simp [hb'] at h
    | false => simp

/-- The engine does not see that a turn is used. -/
theorem engineStep_turnUsed (c : Configuration) (s : State) :
    engineStep c s.turnUsed = { engineStep c s with schedule := s.schedule.tail } := by
  obtain ⟨d, m, q, b, hframe⟩ := engineStep_frame c s
  refine (engineStep_host c s s.program s.vars s.schedule.tail).trans ?_
  rw [hframe]

/-- Settles O37: each part is a fact about one engine step. -/
theorem engineReadsAndWrites : Obligations.EngineReadsAndWrites := by
  intro c s u
  refine ⟨?frame, engineStep_done_of_ne, fun hb => ?idle, fun hb => ?busy, fun hq hd hk hR => ?inputs, fun ht => ?turn⟩
  case frame =>
    obtain ⟨d, m, q, b, hframe⟩ := engineStep_frame c s
    rw [hframe]
  case idle => exact engineStep_idle c ((busy_eq_false_iff s).mp hb)
  case busy =>
    have hq := (busy_iff s).mp hb
    exact ⟨engineStep_dataWritten c hq, engineStep_seq c s ▸ nextSeq_ne _ hq⟩
  case inputs =>
    have hsame := SameInputs.engineStep ⟨hq, hd, hk, hR⟩ c
    exact ⟨hsame.data, hsame.seq⟩
  case turn => rw [step_engine ht, engineStep_turnUsed]

end Sys2Proof.Machine
end

section
/-! Every operation completes (spec/43_encrypt_decrypt.md R197): the sequencer position says how many engine steps are
left, and with no schedule left every step of the machine is one of them. -/

namespace Sys2Proof.Machine

variable {R : Nat} {q : Seq} {s : State}

/-- The engine steps that are left at a position of an operation of `R` rounds (R193). -/
def stepsLeft (R : Nat) : Seq → Nat
  | .idle => 0
  | .enc i .ek0 => 4 * (R - i) + 1
  | .enc i .erc => 4 * (R - i)
  | .enc i .esub => 4 * (R - i) - 1
  | .enc i .elin => 4 * (R - i) - 2
  | .enc i .ekey => 4 * (R - i) - 3
  | .dec i .dkey => 4 * (R - i) + 1
  | .dec i .dilin => 4 * (R - i)
  | .dec i .disub => 4 * (R - i) - 1
  | .dec i .drc => 4 * (R - i) - 2
  | .dec _ .dkf => 1

/-- No position has more steps left than a whole operation takes. -/
theorem stepsLeft_le (R : Nat) (q : Seq) : stepsLeft R q ≤ 4 * R + 1 := by
  cases q with
  | idle => exact Nat.zero_le _
  | enc i ph => cases ph <;> simp only [stepsLeft] <;> omega
  | dec i ph => cases ph <;> simp only [stepsLeft] <;> omega

/-- A legal position of an encryption is in one of its rounds. -/
theorem lt_of_enc_legal {i : Nat} {ph : EncPhase} (h : positionLegal R (.enc i ph) = true) : i < R := by
  cases ph with
  | ek0 =>
    have h : i = 0 ∧ 1 ≤ R := of_decide_eq_true h
    omega
  | erc | esub | elin | ekey => exact of_decide_eq_true h

/-- A legal position of a decryption is in one of its rounds, or the final AddKey. -/
theorem lt_of_dec_legal {i : Nat} {ph : DecPhase} (h : positionLegal R (.dec i ph) = true) (hph : ph ≠ .dkf) :
    i < R := by
  cases ph with
  | dkf => exact absurd rfl hph
  | dkey | dilin | disub | drc => exact of_decide_eq_true h

/-- Moving on from a legal position takes one of the steps that are left. -/
theorem stepsLeft_nextSeq (h : positionLegal R q = true) (hq : q ≠ .idle) :
    stepsLeft R q = stepsLeft R (nextSeq R q) + 1 := by
  cases q with
  | idle => exact absurd rfl hq
  | enc i ph =>
    have hi := lt_of_enc_legal h
    cases ph with
    | ek0 => rfl
    | erc | esub | elin =>
      simp only [nextSeq, stepsLeft]
      omega
    | ekey =>
      simp only [nextSeq]
      split <;> simp only [stepsLeft] <;> omega
  | dec i ph =>
    cases ph with
    | dkey | dkf => rfl
    | dilin | disub =>
      have hi := lt_of_dec_legal h (by simp)
      simp only [nextSeq, stepsLeft]
      omega
    | drc =>
      have hi := lt_of_dec_legal h (by simp)
      simp only [nextSeq]
      split <;> simp only [stepsLeft] <;> omega

/-- With no schedule left, an operation completes in exactly the steps that are left. -/
theorem run_completes {n : Nat} (hn : stepsLeft s.rounds.toNat s.seq = n)
    (hp : positionLegal s.rounds.toNat s.seq = true) (hs : s.schedule = []) (hb : s.busy = true) :
    ∃ t, Sys2Proof.core.run n s = .next t ∧ t.busy = false ∧ t.done = true ∧ t.program = s.program := by
  induction n generalizing s with
  | zero => cases hn.symm.trans (stepsLeft_nextSeq hp ((busy_iff s).mp hb))
  | succ n ih =>
    have hrun := run_succ_of_next (n := n) (step_busy hs hb)
    have hseq := engineStep_seq Config.chip.cfg s
    have hn' : stepsLeft s.rounds.toNat (engineStep Config.chip.cfg s).seq = n :=
      hseq ▸ Nat.succ.inj ((stepsLeft_nextSeq hp ((busy_iff s).mp hb)).symm.trans hn)
    cases hb' : (engineStep Config.chip.cfg s).busy with
    | false =>
      obtain rfl : 0 = n := by rwa [(busy_eq_false_iff _).mp hb'] at hn'
      exact ⟨_, hrun, hb', by rw [engineStep_done _ hb, hb']; exact Bool.or_true _, engineStep_program _ s⟩
    | true =>
      have hp' : positionLegal s.rounds.toNat (engineStep Config.chip.cfg s).seq = true := hseq ▸ nextSeq_legal hp
      rw [← engineStep_rounds Config.chip.cfg s] at hn' hp'
      obtain ⟨t, ht, hidle, hdone, hprog⟩ := ih hn' hp' ((engineStep_schedule _ s).trans hs) hb'
      exact ⟨t, hrun.trans ht, hidle, hdone, hprog.trans (engineStep_program _ s)⟩

/-- Settles O54: the steps that are left at a legal position are at most 4R + 1. -/
theorem everyOperationCompletes : Obligations.EveryOperationCompletes := by
  rintro s ⟨-, hp, -⟩ hs hb
  obtain ⟨t, ht⟩ := run_completes rfl hp hs hb
  exact ⟨_, t, stepsLeft_le _ _, ht⟩

end Sys2Proof.Machine
end

section
/-! The layers of an operation, in order (spec/43_encrypt_decrypt.md R183, R184, R191, R192). -/

namespace Sys2Proof.Machine

variable {c : Configuration} {s t : State}

/-- The layers of encryption round `i` (R180, R191). -/
def encLayers (i : Nat) : List Layer := [.addRC (i + 1), .sub, .lin, .addKey]

/-- The layers of decryption round `i` of `R` (R181, R192). -/
def decLayers (R i : Nat) : List Layer := [.addKey, .invLin, .invSub, .addRC (R - i)]

/-- The layers of a run are those of its parts. -/
theorem layerTrace_add (c : Configuration) (m n : Nat) (s : State) :
    layerTrace c (m + n) s = layerTrace c m s ++ layerTrace c n (engineSteps c m s) := by
  induction m generalizing s with
  | zero => rw [Nat.zero_add]; rfl
  | succ m ih => rw [Nat.succ_add, layerTrace, ih, layerTrace, engineSteps_succ, List.append_assoc]

theorem EngineRun.layerTrace_add {m : Nat} (h : EngineRun c m s t) (n : Nat) :
    layerTrace c (m + n) s = layerTrace c m s ++ layerTrace c n t := by
  rw [Machine.layerTrace_add, h.result]

theorem layerTrace_encRound {i : Nat} (c : Configuration) (hq : s.seq = .enc i .erc) :
    layerTrace c 4 s = encLayers i := by
  simp [layerTrace, engineStep_seq, hq, nextSeq, layerAt, encLayers]

theorem layerTrace_decRound {i : Nat} (c : Configuration) (hq : s.seq = .dec i .dkey) :
    layerTrace c 4 s = decLayers s.rounds.toNat i := by
  simp [layerTrace, engineStep_seq, hq, nextSeq, layerAt, decLayers]

/-- The layers of the encryption rounds that are left at round `i`. -/
theorem layerTrace_encRounds {n i : Nat} (hq : s.seq = .enc i .erc) (hn : i + (n + 1) = s.rounds.toNat) :
    layerTrace c (4 * (n + 1)) s = (List.range' i (n + 1)).flatMap encLayers := by
  induction n generalizing s i with
  | zero => exact layerTrace_encRound c hq
  | succ n ih =>
    have hround := engineRun_encRound (c := c) hq
    rw [if_pos (by omega)] at hround
    rw [(by omega : 4 * (n + 1 + 1) = 4 + 4 * (n + 1)), hround.layerTrace_add, layerTrace_encRound c hq,
      ih (i := i + 1) rfl (by rw [State.ran_rounds]; omega), List.range'_succ (n := n + 1), List.flatMap_cons]

/-- The layers of the decryption rounds that are left at round `i`, up to the final AddKey. -/
theorem layerTrace_decRounds {n i : Nat} (hq : s.seq = .dec i .dkey) (hn : i + (n + 1) = s.rounds.toNat) :
    layerTrace c (4 * (n + 1)) s = (List.range' i (n + 1)).flatMap (decLayers s.rounds.toNat) := by
  induction n generalizing s i with
  | zero => exact layerTrace_decRound c hq
  | succ n ih =>
    have hround := engineRun_decRound (c := c) hq
    rw [if_pos (by omega)] at hround
    rw [(by omega : 4 * (n + 1 + 1) = 4 + 4 * (n + 1)), hround.layerTrace_add, layerTrace_decRound c hq,
      ih (i := i + 1) rfl (by rw [State.ran_rounds]; omega), List.range'_succ (n := n + 1), List.flatMap_cons,
      State.ran_rounds]

/-- The layers of a whole encryption: AddKey, and then the rounds. -/
theorem layerTrace_encrypt (hq : s.seq = .enc 0 .ek0) (hR : 1 ≤ s.rounds.toNat) :
    layerTrace c (4 * s.rounds.toNat + 1) s = .addKey :: (List.range s.rounds.toNat).flatMap encLayers := by
  obtain ⟨n, hn⟩ := Nat.exists_eq_add_of_le' hR
  have hfirst : layerTrace c 1 s = [.addKey] := by simp [layerTrace, hq, layerAt]
  have hrounds := layerTrace_encRounds (c := c) (s := s.ran (addKey s.key s.data) (.enc 0 .erc)) (n := n) rfl
    (by rw [State.ran_rounds]; omega)
  rw [Nat.add_comm, (engineRun_first hq rfl).layerTrace_add, hfirst, hn, List.range_eq_range']
  exact congrArg (Layer.addKey :: ·) hrounds

/-- The layers of a whole decryption: the rounds, and then AddKey (R184). -/
theorem layerTrace_decrypt (hq : s.seq = .dec 0 .dkey) (hR : 1 ≤ s.rounds.toNat) :
    layerTrace c (4 * s.rounds.toNat + 1) s =
      (List.range s.rounds.toNat).flatMap (decLayers s.rounds.toNat) ++ [.addKey] := by
  obtain ⟨n, hn⟩ := Nat.exists_eq_add_of_le' hR
  have hrun := engineRun_decRounds (c := c) (n := n) hq (by omega)
  have hrounds := layerTrace_decRounds (c := c) (n := n) hq (by omega)
  rw [← hn] at hrun hrounds
  rw [hrun.layerTrace_add, hrounds, List.range_eq_range']
  rfl

/-- Rounds that apply AddKey once each apply it as often as there are rounds. -/
theorem count_addKey_flatMap {f : Nat → List Layer} (h : ∀ i, (f i).count .addKey = 1) (n : Nat) :
    ((List.range n).flatMap f).count .addKey = n := by
  have hone : List.count .addKey ∘ f = fun _ => 1 := funext h
  rw [List.count_flatMap, hone, List.map_const', List.sum_replicate, List.length_range, smul_eq_mul, mul_one]

/-- Settles O33: the orders are those of the two operations, and each round applies AddKey once. -/
theorem engineAppliesTheLayersInOrder : Obligations.EngineAppliesTheLayersInOrder := by
  intro c s hR
  refine ⟨fun hq => layerTrace_encrypt hq hR, fun hq => layerTrace_decrypt hq hR, fun hq => ?_⟩
  rcases hq with hq | hq
  · rw [layerTrace_encrypt hq hR, List.count_cons_self, count_addKey_flatMap fun _ => rfl]
  · rw [layerTrace_decrypt hq hR, List.count_append, count_addKey_flatMap fun _ => rfl]
    rfl

end Sys2Proof.Machine
end

section
/-! The inverse theorem (spec/43_encrypt_decrypt.md R182): decryption round j undoes encryption round i where
R - j = i + 1, and the other way round; so the last rounds of the one are undone by the first rounds of the other. -/

namespace Sys2Proof.Machine

variable {c : Configuration} {n i j R : Nat}

/-- The last of `n + 1` encryption rounds is round `i + n`. -/
theorem encRounds_succ_last (c : Configuration) (key : Block) (n i : Nat) (S : Block) :
    encRounds c key (n + 1) i S = encRound c key (i + n) (encRounds c key n i S) := by
  induction n generalizing i S with
  | zero => rfl
  | succ n ih => rw [encRounds, ih, encRounds, Nat.succ_add_eq_add_succ]

/-- The last of `n + 1` decryption rounds is round `j + n`. -/
theorem decRounds_succ_last (c : Configuration) (key : Block) (R n j : Nat) (S : Block) :
    decRounds c key R (n + 1) j S = decRound c key R (j + n) (decRounds c key R n j S) := by
  induction n generalizing j S with
  | zero => rfl
  | succ n ih => rw [decRounds, ih, decRounds, Nat.succ_add_eq_add_succ]

theorem decRound_encRound (hc : c.WellFormed) (h : i + j + 1 = R) (key S : Block) :
    decRound c key R j (encRound c key i S) = S := by
  rw [decRound, encRound, addKey_addKey, (diffusionInverse c _ hc).1, (substitutionInverse c _ hc).1,
    (by omega : R - j = i + 1), addRC_addRC]

theorem encRound_decRound (hc : c.WellFormed) (h : i + j + 1 = R) (key S : Block) :
    encRound c key i (decRound c key R j S) = S := by
  rw [encRound, decRound, (by omega : R - j = i + 1), addRC_addRC, (substitutionInverse c _ hc).2,
    (diffusionInverse c _ hc).2, addKey_addKey]

/-- The encryption rounds from `i` on are undone by the decryption rounds from `j` on, where both end together. -/
theorem decRounds_encRounds (hc : c.WellFormed) (h : i + j + n = R) (key S : Block) :
    decRounds c key R n j (encRounds c key n i S) = S := by
  induction n generalizing i S with
  | zero => rfl
  | succ n ih => rw [decRounds_succ_last, encRounds, ih (by omega), decRound_encRound hc (by omega)]

theorem encRounds_decRounds (hc : c.WellFormed) (h : i + j + n = R) (key S : Block) :
    encRounds c key n i (decRounds c key R n j S) = S := by
  induction n generalizing j S with
  | zero => rfl
  | succ n ih => rw [encRounds_succ_last, decRounds, ih (by omega), encRound_decRound hc (by omega)]

theorem decryptBlock_encryptBlock (hc : c.WellFormed) (key : Block) (R : Nat) (S : Block) :
    decryptBlock c key R (encryptBlock c key R S) = S := by
  rw [decryptBlock, encryptBlock, decRounds_encRounds hc (by omega), addKey_addKey]

theorem encryptBlock_decryptBlock (hc : c.WellFormed) (key : Block) (R : Nat) (S : Block) :
    encryptBlock c key R (decryptBlock c key R S) = S := by
  rw [encryptBlock, decryptBlock, addKey_addKey, encRounds_decRounds hc (by omega)]

/-- Settles O32, round by round. -/
theorem decryptionInvertsEncryption : Obligations.DecryptionInvertsEncryption := fun _ key R S hc _ _ =>
  ⟨decryptBlock_encryptBlock hc key R S, encryptBlock_decryptBlock hc key R S⟩

/-- Taking DATA after a completed operation takes every word as it is (R21). -/
theorem takeData_ran (s : State) (S : Block) (q : Seq) : (s.ran S q).takeData = s.ran S q :=
  takeData_of_allWritten allWritten_replicate_true

/-- An operation after a completed one leaves what it would leave in its place, but for DATA. -/
theorem ran_begin_ran_idle (s : State) (S T : Block) (q : Seq) :
    ((s.ran S .idle).begin q).ran T .idle = s.ran T .idle := by
  rw [State.ran_idle, State.ran_idle, State.ran_idle, State.begin]

/-- A DECRYPT issued on a completed encryption is accepted, and gives back the DATA that the encryption started from. -/
theorem decrypt_after_encryption {t : State} {len : Byte} (hq : t.seq = .enc 0 .ek0) (hR : 1 ≤ t.rounds.toNat)
    (hk : t.keyValid = true) (hl : len.toNat = 2 * N) :
    ∃ u, exec (.decrypt len) (engineSteps Config.chip.cfg (4 * t.rounds.toNat + 1) t) = .next u ∧
      engineSteps Config.chip.cfg (4 * t.rounds.toNat + 1) u = t.ran t.data .idle := by
  rw [(engineRun_encrypt hq hR).result]
  refine ⟨_, exec_operation_accepted (.inr ⟨rfl, rfl⟩) rfl hl hk, ?_⟩
  rw [takeData_ran]
  refine (engineRun_decrypt (s := (t.ran _ .idle).begin (.dec 0 .dkey)) rfl hR).result.trans ?_
  rw [ran_begin_ran_idle]
  exact congrArg (t.ran · .idle) (decryptBlock_encryptBlock Config.chip.ok t.key t.rounds.toNat t.data)

/-- Settles O39: the ENCRYPT starts on the DATA it takes, and the DECRYPT gives that back. -/
theorem decryptUndoesEncryptOnTheChip : Obligations.DecryptUndoesEncryptOnTheChip := by
  intro len s hb hl hk hR
  obtain ⟨u, hdec, hresult⟩ := decrypt_after_encryption (t := s.takeData.begin (.enc 0 .ek0)) rfl
    (by simpa using hR) (by simpa using hk) hl
  rw [State.begin_rounds, State.takeData_rounds] at hdec hresult
  refine ⟨_, u, exec_operation_accepted (.inl ⟨rfl, rfl⟩) hb hl hk, hdec, hresult.trans (State.ran_idle _ _),
    fun hm => hresult.trans ?_⟩
  have hall := (allWritten_iff s.dataWritten).mpr hm
  rw [ran_begin_takeData hb, State.begin_data, takeData_of_allWritten hall, ← marks_eq_of_allWritten hall]

end Sys2Proof.Machine
end

section
/-! The Errors: what recording one does to STATUS, and the order in which a CMD write finds one (spec/60_exceptions.md
R211, R212, R214). -/

namespace Sys2Proof.Machine

variable {c : Configuration} {s t : State} {i : Instr}

/-! ### Recording an Error (R212) -/

/-- The code 0 is no Error (R211). -/
theorem errField_eq_zero_iff (x : Option Error) : errField x = 0#4 ↔ x = none := by
  cases x with
  | none => decide
  | some e => cases e <;> decide

/-- ERR takes the code where it was 0, and otherwise keeps its value. -/
theorem errField_raise (s : State) (e : Error) :
    errField (s.raise e).err = if errField s.err = 0#4 then e.code else errField s.err := by
  rw [State.raise_err]
  cases h : s.err with
  | none => rfl
  | some x => exact (if_neg (mt (errField_eq_zero_iff (some x)).mp nofun)).symm

/-- An Error is recorded exactly where ERR is not 0. -/
theorem isSome_eq_errField_ne_zero (x : Option Error) : x.isSome = (errField x != 0#4) := by
  rw [Bool.eq_iff_iff, bne_iff_ne, ne_eq, errField_eq_zero_iff, ← ne_eq, Option.isSome_iff_ne_none]

/-- Bit 4 of the STATUS value is ERROVF (R28). -/
theorem statusValue_errovf (s : State) : s.statusValue.getLsbD 4 = s.errovf := by
  rw [statusValue_getLsbD]
  simp

/-- Outside bits 11:8, where ERR stands, and bit 4, ERROVF, the STATUS value does not depend on the Errors. -/
theorem statusValue_raise_getLsbD (s : State) (e : Error) {i : Nat} (h4 : i ≠ 4) (hi : i < 8 ∨ 12 ≤ i) :
    (s.raise e).statusValue.getLsbD i = s.statusValue.getLsbD i := by
  have herr : ∀ x, (!decide (i < 8) && (errField x).getLsbD (i - 8)) = false := by
    intro x
    rcases hi with h8 | h12
    · simp [h8]
    · simp [BitVec.getLsbD_of_ge _ _ (by omega : 4 ≤ i - 8)]
  rw [statusValue_getLsbD, statusValue_getLsbD, herr, herr]
  simp [h4]

/-- Settles O13: ERR, ERROVF and the other bits of the STATUS value, and the fields an Error is recorded in. -/
theorem raiseRecordsTheFirstCode : Obligations.RaiseRecordsTheFirstCode := by
  intro s e
  refine ⟨?_, ?_, fun i h4 hi => statusValue_raise_getLsbD s e h4 hi, raise_eq s e⟩
  · rw [statusValue_extract_err, statusValue_extract_err, errField_raise]
    cases e <;> rfl
  · rw [statusValue_errovf, statusValue_errovf, statusValue_extract_err, State.raise_errovf, isSome_eq_errField_ne_zero]

/-! ### The acceptance checks of a CMD write (R214) -/

/-- The commands that declare a length: SETUP, ENCRYPT and DECRYPT (R93). -/
abbrev Declares (i : Instr) (len : Byte) : Prop := (∃ rnd, i = .setup len rnd) ∨ i = .encrypt len ∨ i = .decrypt len

/-- The commands that need KEY_VALID: ENCRYPT and DECRYPT. -/
abbrev Operates (i : Instr) : Prop := ∃ len, i = .encrypt len ∨ i = .decrypt len

/-- While BUSY a CMD write of any word is dropped before it is decoded (R110). -/
theorem busWrite_cmd_busy (word : BusWord) (run : Instr → State → Result) (hb : s.busy = true) :
    busWrite run .w32 cmdOffset word s = .next (s.raise .busy) :=
  (busWrite_offset run .cmd word s).trans (if_pos hb)

theorem exec_wrongLength {len : Byte} (hb : s.busy = false) (hi : Declares i len) (hl : len.toNat ≠ 2 * N) :
    exec i s = .next (s.raise .invalidLength) := by
  rcases hi with ⟨rnd, rfl⟩ | rfl | rfl
  · exact (exec_setup len rnd s).trans (whenAccepted_wrongLength hb hl)
  · exact (exec_encrypt len s).trans (whenAccepted_wrongLength hb hl)
  · exact (exec_decrypt len s).trans (whenAccepted_wrongLength hb hl)

theorem exec_noKey (hb : s.busy = false) (hl : ∀ len, Declares i len → len.toNat = 2 * N) (hi : Operates i)
    (hk : s.keyValid = false) : exec i s = .next (s.raise .noKey) := by
  rcases hi with ⟨len, rfl | rfl⟩
  · exact (exec_encrypt len s).trans (whenAccepted_noKey hb (hl len (.inr (.inl rfl))) hk)
  · exact (exec_decrypt len s).trans (whenAccepted_noKey hb (hl len (.inr (.inr rfl))) hk)

/-- A command that passes every check has its effect (R110). -/
theorem exec_accepted (hb : s.busy = false) (hl : ∀ len, Declares i len → len.toNat = 2 * N)
    (hk : Operates i → s.keyValid = true) : ∃ t, exec i s = .next t ∧ Effect Config.chip.cfg s t i := by
  cases i with
  | nop => exact ⟨_, (exec_nop s).trans (whenAccepted_idle hb), .nop rfl⟩
  | setup len rnd =>
    have hlen := hl len (.inl ⟨rnd, rfl⟩)
    exact ⟨_, exec_setup_accepted hb hlen rnd, .setup len rnd ((lengthOk_iff len).mpr hlen) rfl⟩
  | encrypt len =>
    have hlen := hl len (.inr (.inl rfl))
    have hkey := hk ⟨len, .inl rfl⟩
    exact ⟨_, exec_operation_accepted (.inl ⟨rfl, rfl⟩) hb hlen hkey,
      .encrypt len ((lengthOk_iff len).mpr hlen) hkey rfl⟩
  | decrypt len =>
    have hlen := hl len (.inr (.inr rfl))
    have hkey := hk ⟨len, .inr rfl⟩
    exact ⟨_, exec_operation_accepted (.inr ⟨rfl, rfl⟩) hb hlen hkey,
      .decrypt len ((lengthOk_iff len).mpr hlen) hkey rfl⟩
  | release => exact ⟨_, exec_release_idle hb, .release rfl⟩

/-- The commands that consume an unwritten word, with the file each consumes (R112 to R114). -/
theorem consumes_iff (s : State) (i : Instr) :
    Consumes s i ↔ ((∃ len rnd, i = .setup len rnd) ∧ ∃ w : Fin N, s.keyinWritten[w] = false) ∨
      (Operates i ∧ ∃ w : Fin N, s.dataWritten[w] = false) := by
  simp only [← allWritten_eq_false_iff]
  constructor
  · rintro (⟨len, rnd, hw⟩ | ⟨len, hw⟩ | ⟨len, hw⟩)
    · exact .inl ⟨⟨len, rnd, rfl⟩, hw⟩
    · exact .inr ⟨⟨len, .inl rfl⟩, hw⟩
    · exact .inr ⟨⟨len, .inr rfl⟩, hw⟩
  · rintro (⟨⟨len, rnd, rfl⟩, hw⟩ | ⟨⟨len, rfl | rfl⟩, hw⟩)
    · exact .setup len rnd hw
    · exact .encrypt len hw
    · exact .decrypt len hw

/-- An accepted command that consumes an unwritten word records UnwrittenRead (R220). -/
theorem effect_fault_of_consumes (h : Effect c s t i) (hc : Consumes s i) :
    t.fault = some (s.fault.getD .unwrittenRead) := by
  cases hc with
  | setup len rnd hw => cases h with | setup _ _ _ h => simp [h, hw]
  | encrypt len hw => cases h with | encrypt _ _ _ h => simp [h, hw]
  | decrypt len hw => cases h with | decrypt _ _ _ h => simp [h, hw]

/-- Settles O10: each check that fails decides the Error, and a command that passes them all has its effect, which raises
none. -/
theorem acceptanceChecksInOrder : Obligations.AcceptanceChecksInOrder := by
  intro word s
  split
  · next hb => exact busWrite_cmd_busy word exec hb
  next hb =>
  replace hb := Bool.eq_false_iff.mpr hb
  split
  · next hd => exact busWrite_cmd_of_error hd exec hb
  next i hd =>
  rw [busWrite_cmd_of_ok hd]
  split
  · next hl =>
    obtain ⟨len, hi, hl⟩ := hl
    exact exec_wrongLength hb hi hl
  next hl =>
  replace hl : ∀ len, Declares i len → len.toNat = 2 * N := fun len hi => by_contra fun h => hl ⟨len, hi, h⟩
  split
  · next hk => exact exec_noKey hb hl hk.1 hk.2
  next hk =>
  obtain ⟨t, ht, he⟩ := exec_accepted hb hl fun hi => Bool.eq_true_of_not_eq_false fun h => hk ⟨hi, h⟩
  refine ⟨t, ht, (effect_err he).1, (effect_err he).2, ?_⟩
  split
  · next hc => exact effect_fault_of_consumes he ((consumes_iff s i).mpr hc)
  · next hc => exact (effect_fault he).resolve_right fun h => hc ((consumes_iff s i).mp h.2)

end Sys2Proof.Machine
end

section
/-! The faults: what a step can record, and that no step, fault or not, ends a run (spec/60_exceptions.md R220 to R222). -/

namespace Sys2Proof.Machine

variable {c : Configuration} {s t : State}

/-! ### The faults of a step (R220) -/

/-- On the host's turn, the bus checks fail the access of its statement with `k`. -/
abbrev HostFails (s : State) (k : BusFaultKind) : Prop :=
  turnOf s = some .host ∧ ∃ width off rest,
    ((∃ v, s.program = .write width off v :: rest) ∨ (∃ n, s.program = .read width off n :: rest)) ∧
      busCheck width off = .error k

/-- The host's statement reads or consumes a word that was never written. -/
abbrev MeetsUnwritten (s : State) : Prop :=
  (∃ (w : Fin N) (n : Nat) (rest : List Stmt),
      s.program = .read .w32 (keyinOffset w) n :: rest ∧ s.keyinWritten[w] = false) ∨
    (∃ (w : Fin N) (n : Nat) (rest : List Stmt), s.busy = false ∧
      s.program = .read .w32 (dataOffset w) n :: rest ∧ s.dataWritten[w] = false) ∨
    (s.busy = false ∧ (∃ len rnd, hostIssues s (.setup len rnd)) ∧ ∃ w : Fin N, s.keyinWritten[w] = false) ∨
    (s.busy = false ∧ (∃ len, hostIssues s (.encrypt len) ∨ hostIssues s (.decrypt len)) ∧
      ∃ w : Fin N, s.dataWritten[w] = false)

/-- What a step does to the fault field: it keeps it, or records the first fault in it. -/
inductive FaultEffect (s t : State) : Prop where
  | kept (h : t.fault = s.fault)
  | busFault (k : BusFaultKind) (hf : HostFails s k) (h : t.fault = some (s.fault.getD (.busFault k)))
  | unwrittenRead (ht : turnOf s = some .host) (hu : MeetsUnwritten s)
      (h : t.fault = some (s.fault.getD .unwrittenRead))

/-- The command the host has issued is one that consumes an unwritten word. -/
theorem meetsUnwritten_of_consumes {i : Instr} (hb : s.busy = false) (hi : hostIssues s i) (hc : Consumes s i) :
    MeetsUnwritten s := by
  rcases (consumes_iff s i).mp hc with ⟨⟨len, rnd, rfl⟩, hw⟩ | ⟨⟨len, rfl | rfl⟩, hw⟩
  · exact .inr (.inr (.inl ⟨hb, ⟨len, rnd, hi⟩, hw⟩))
  · exact .inr (.inr (.inr ⟨hb, ⟨len, .inl hi⟩, hw⟩))
  · exact .inr (.inr (.inr ⟨hb, ⟨len, .inr hi⟩, hw⟩))

/-- A WR of the host, past its statement: a failed bus check, or a command that consumes an unwritten word. -/
theorem writeEffect_faultEffect {width : Width} {off : Byte} {v : BusWord} {rest : List Stmt}
    (ht : turnOf s = some .host) (hp : s.program = .write width off v :: rest)
    (h : WriteEffect c width off v (s.turnUsed.withProgram rest) t) : FaultEffect s t := by
  rcases writeEffect_fault h with hf | ⟨k, hk, hf⟩ | ⟨hf, hb, rfl, i, rfl, hd, hc⟩
  · exact .kept hf
  · exact .busFault k ⟨ht, width, off, rest, .inl ⟨v, hp⟩, hk⟩ hf
  · have hc : Consumes s i := by simpa [consumes_iff] using hc
    exact .unwrittenRead ht (meetsUnwritten_of_consumes hb ⟨v, ⟨ht, rest, hp⟩, hd⟩ hc) hf

/-- A RD of the host, past its statement: a failed bus check, or a read of an unwritten word. -/
theorem busRead_faultEffect {width : Width} {off : Byte} {n : Nat} {rest : List Stmt} (ht : turnOf s = some .host)
    (hp : s.program = .read width off n :: rest)
    (h : t.fault = (busRead c width off (s.turnUsed.withProgram rest)).2.fault) : FaultEffect s t := by
  rcases busRead_cases c width off (s.turnUsed.withProgram rest) with ⟨k, hk, hr⟩ | ⟨r, rfl, rfl, hr⟩ <;> rw [hr] at h
  · exact .busFault k ⟨ht, width, off, rest, .inr ⟨n, hp⟩, hk⟩ (by simpa using h)
  · rcases readReg_cases c r (s.turnUsed.withProgram rest) with hr | ⟨_, hr⟩ | ⟨hr, hu⟩ <;> rw [hr] at h
    · exact .kept h
    · exact .kept h
    · refine .unwrittenRead ht ?_ (by simpa using h)
      rcases hu with ⟨w, rfl, hw⟩ | ⟨hb, w, rfl, hw⟩
      · exact .inl ⟨w, n, rest, hp, hw⟩
      · exact .inr (.inl ⟨w, n, rest, hb, hp, hw⟩)

/-- Of the host's statements, only a WR and a RD touch the fault field. -/
theorem hostEffect_faultEffect (ht : turnOf s = some .host) (h : HostEffect c s.turnUsed t) : FaultEffect s t := by
  cases h with
  | none _ h => exact .kept (by rw [h]; rfl)
  | write width off v rest hp h => exact writeEffect_faultEffect ht hp h
  | read width off n rest hp h => exact busRead_faultEffect ht hp (by rw [h, State.receive_fault])
  | pollAgain n rest _ _ h => exact .kept (by rw [h]; rfl)
  | pollDone n rest _ _ h => exact .kept (by rw [h]; rfl)

/-- The inversion of a step, for the fault field. -/
theorem stepEffect_faultEffect (h : StepEffect c s t) : FaultEffect s t := by
  cases h with
  | wait _ h => exact .kept (by rw [h])
  | host ht h => exact hostEffect_faultEffect ht h
  | engine _ h =>
    obtain ⟨_, _, _, _, he⟩ := engineStep_frame c s.turnUsed
    exact .kept (by rw [h, he]; rfl)
  | reset _ h => exact .kept (by rw [h]; rfl)

/-- An access of the host that the bus checks fail is recorded (R62, R63). -/
theorem step_fault_of_hostFails {k : BusFaultKind} (h : step s = .next t) (hf : HostFails s k) :
    t.fault = some (s.fault.getD (.busFault k)) := by
  obtain ⟨ht, width, off, rest, ⟨v, hp⟩ | ⟨n, hp⟩, hk⟩ := hf
  · rw [step_hostWrite ht hp, (access_of_busCheck_error hk Config.chip.cfg exec v _).2] at h
    cases h
    rfl
  · rw [step_hostRead ht hp, (access_of_busCheck_error hk Config.chip.cfg exec 0 s).1] at h
    cases h
    rfl

/-- Settles O55, by what a step does to the fault field. -/
theorem stepFaultsOnlyAs : Obligations.StepFaultsOnlyAs := by
  intro s t h
  have hf := stepEffect_faultEffect (step_next h)
  refine ⟨fun hs k => ⟨fun ht => ?_, fun hk => by rw [step_fault_of_hostFails h hk, hs]; rfl⟩, fun hne => ?_⟩
  · cases hf with
    | kept h => simp [h, hs] at ht
    | busFault k' hk' h =>
      obtain rfl : k' = k := by simpa [h, hs] using ht
      exact hk'
    | unwrittenRead _ _ h => simp [h, hs] at ht
  · have hs : ∀ f, t.fault = some (s.fault.getD f) → s.fault = none := fun f hf =>
      Option.eq_none_iff_forall_ne_some.mpr fun g hg => hne (by simp [hf, hg])
    cases hf with
    | kept h => exact absurd h hne
    | busFault k hk h => exact ⟨hk.1, hs _ h, .inl ⟨k, by simp [h, hs _ h]⟩⟩
    | unwrittenRead ht hu h => exact ⟨ht, hs _ h, .inr ⟨by simp [h, hs _ h], hu⟩⟩

/-! ### Every run goes on (R221, R222) -/

/-- Every step answers a state, so what every step keeps holds after a run of any number of steps. -/
theorem run_keeps {P : State → Prop} (hP : ∀ {s t : State}, step s = .next t → P s → P t) (n : Nat) {s : State}
    (hs : P s) : ∃ t, Sys2Proof.core.run n s = .next t ∧ P t := by
  induction n generalizing s with
  | zero => exact ⟨s, rfl, hs⟩
  | succ n ih =>
    obtain ⟨t, ht⟩ := step_isNext s
    rw [run_succ_of_next ht]
    exact ih (hP ht hs)

/-- Settles O56: every step keeps a recorded fault. -/
theorem faultIsNeverCleared : Obligations.FaultIsNeverCleared :=
  ⟨fun _ _ n hf => run_keeps (fun h => stepEffect_fault (step_next h)) n hf, fun _ => rfl⟩

/-- Settles O57: every step answers a state, whatever state it is taken from. -/
theorem everyRunGoesOn : Obligations.EveryRunGoesOn := fun n _ =>
  (run_keeps (P := fun _ => True) (fun _ h => h) n trivial).imp fun _ h => h.1

/-! ### The configuration (R222) -/

theorem stepUnder_of_not_wellFormed (h : ¬ c.WellFormed) (s : State) :
    stepUnder c s = .refused .illFormedConfiguration := if_neg h

/-- The machine is the model under the chip's configuration, which is admitted. -/
theorem stepUnder_chip (s : State) : stepUnder Config.chip.cfg s = step s :=
  (if_pos Config.chip.ok).trans (step_eq s).symm

/-- Settles O58: each clause contradicts a law of the configuration. -/
theorem illFormedConfigurationsAreRefused : Obligations.IllFormedConfigurationsAreRefused := by
  refine ⟨fun c s hc => stepUnder_of_not_wellFormed ?_ s, stepUnder_chip⟩
  rintro ⟨-, ⟨hdefault, hmin, hmax, hlower, hupper⟩, hsbox, hdiffusion⟩
  simp only [← or_assoc] at hc
  rcases hc with (hrounds | ⟨x, hx⟩) | ⟨x, hx⟩
  · omega
  · exact hx (hsbox x)
  · exact hx (invLinWord_linWord hdiffusion x)

end Sys2Proof.Machine
end

section
/-! The end of a run: when nobody has a move (spec/70_reset_and_hazards.md R240), and what is then observed (R252). -/

namespace Sys2Proof.Machine

variable {c : Configuration} {s : State}

/-- Nobody has a move exactly when nothing is left: no turn, no statement and no operation (R240). -/
theorem turnOf_eq_none_iff : turnOf s = none ↔ s.schedule = [] ∧ s.program = [] ∧ s.seq = .idle := by
  cases hs : s.schedule with
  | cons t ts => simp [turnOf, hs]
  | nil =>
    rw [← busy_eq_false_iff]
    cases hb : s.busy with
    | true => simp [turnOf_busy hs hb]
    | false => cases hp : s.program <;> simp [turnOf, hs, hb, hp]

/-! ### The observation (R252) -/

/-- What a read at `off` answers for an observed word of a register file (R64): the word itself, and for none some value,
with UnwrittenRead recorded. -/
def ReadsAs (c : Configuration) (s : State) (off : Byte) : Option Word → Prop
  | some x => busRead c .w32 off s = (some (x.setWidth 32), s)
  | none => ∃ d : Word, busRead c .w32 off s =
      (some (d.setWidth 32), { s with draws := s.draws + 1, fault := some .unwrittenRead })

theorem readableWords_get (file : Block) (marks : Marks) (w : Fin N) :
    (readableWords file marks)[w] = if marks[w] = true then some file[w] else none := by
  simp [readableWords]

/-- Without a fault, a word whose read depends on its mark as R64 says is read as it is observed. -/
theorem readsAs_of_returns {file : Block} {marks : Marks} {off : Byte} {w : Fin N} (hf : s.fault = none)
    (h : if marks[w] = true then busRead c .w32 off s = (some (file[w].setWidth 32), s)
      else ∃ d : Word, busRead c .w32 off s =
        (some (d.setWidth 32), { s with draws := s.draws + 1, fault := some (s.fault.getD .unwrittenRead) })) :
    ReadsAs c s off (readableWords file marks)[w] := by
  rw [hf] at h
  rw [readableWords_get]
  split
  · next hm =>
    rw [if_pos hm] at h
    exact h
  · next hm =>
    rw [if_neg hm] at h
    exact h

theorem keyin_readsAs (hf : s.fault = none) (w : Fin N) :
    ReadsAs c s (keyinOffset w) (readableWords s.keyin s.keyinWritten)[w] :=
  readsAs_of_returns hf (busRead_keyin_returns c w s)

/-- A DATA word is read as it is observed only on an idle block: a busy one answers any value (R67 (b)). -/
theorem data_readsAs (hf : s.fault = none) (hb : s.busy = false) (w : Fin N) :
    ReadsAs c s (dataOffset w) (readableWords s.data s.dataWritten)[w] := by
  have h := busRead_data_returns c w s
  rw [if_neg (by simp [hb])] at h
  exact readsAs_of_returns hf h

/-- A run that has not ended, or has faulted, is not observed. -/
theorem observe_eq_none (h : s.busy = true ∨ s.program ≠ [] ∨ s.fault ≠ none) : observe c s = none := by
  rw [busy_iff] at h
  refine if_neg fun ⟨hp, hq, hf⟩ => ?_
  rcases h with h | h | h
  · exact h hq
  · exact h hp
  · exact h hf

/-- Settles O59: the last clause but one is what R64 reads, register by register and word by word. -/
theorem nobodyMovesAndEndIsObserved : Obligations.NobodyMovesAndEndIsObserved := by
  refine fun c s => ⟨turnOf_eq_none_iff, fun ht => ⟨step_of_no_turn ht, fun hf => ?_⟩, fun he => ?_, observe_eq_none⟩
  · obtain ⟨-, hp, hq⟩ := turnOf_eq_none_iff.mp ht
    exact ⟨hp, hq, hf⟩
  · have ⟨_, hq, hf⟩ := he
    have hb : s.busy = false := (busy_eq_false_iff s).mpr hq
    exact ⟨_, if_pos he, rfl, busRead_offset c .cfg s, busRead_offset c .status s, busRead_offset c .rounds s,
      fun w => ⟨keyin_readsAs hf w, data_readsAs hf hb w⟩⟩

end Sys2Proof.Machine
end
